-- ==== Sys2Proof/Word.lean ====
section
/-! DEFINITION. The words of the block's interface: the command word, its data field, a fetched sample, and the index of a tap. -/

namespace Sys2Proof

/-- A command word, 40 bits (30_encoding.md R70). -/
abbrev Word := BitVec 40

/-- The data field of a command word, and the width of `rdata` (R71, 00_scope.md R11).
The wide registers are also held in this width, masked to their configured one. -/
abbrev Data := BitVec 32

/-- A fetched sample, `SMP_BITS` = 16 bits, two's complement (00_scope.md R5, 10_state.md R28). -/
abbrev Sample := BitVec 16

/-- The index of one of the two interpolated samples (10_state.md R28, 30_encoding.md R73):
`tap0` is the sample at the integer address, `tap1` the sample one ahead. -/
inductive Tap
  | tap0
  | tap1
deriving DecidableEq, Repr

end Sys2Proof
end

