-- ==== Sys2Proof/Syntax.lean ====
section
/-! DEFINITION. The commands of the block, one constructor per row of spec/opcode_table.json (30_encoding.md R74).
Each carries the fields of the command word that the command uses (R72, R73) and no other. -/

namespace Sys2Proof

/-- The 16 commands. -/
inductive Instr
  /-- `NOP` (43_control.md R180). -/
  | nop
  /-- `STEP` (40_step_loop.md R100). -/
  | step
  /-- `LDSMP tap, value` (41_sample_path.md R135): `value` is `data[15:0]`. -/
  | ldsmp (tap : Tap) (value : Sample)
  /-- `RDSMP tap` (41_sample_path.md R136). -/
  | rdsmp (tap : Tap)
  /-- `WRFC value` (42_register_access.md R151). -/
  | wrfc (data : Data)
  /-- `WRSTART value` (R152). -/
  | wrstart (data : Data)
  /-- `WREND value` (R153). -/
  | wrend (data : Data)
  /-- `WRACC value` (R154). -/
  | wracc (data : Data)
  /-- `WRCR value` (R155): `cr` is `data[7:0]`. -/
  | wrcr (cr : BitVec 8)
  /-- `RDFC` (R158). -/
  | rdfc
  /-- `RDSTART` (R159). -/
  | rdstart
  /-- `RDEND` (R160). -/
  | rdend
  /-- `RDACC` (R161). -/
  | rdacc
  /-- `RDCR` (R162). -/
  | rdcr
  /-- `IRQCLR` (43_control.md R181). -/
  | irqclr
  /-- `RESET` (43_control.md R182). -/
  | reset
deriving DecidableEq, Repr

end Sys2Proof
end

