-- ==== Sys2Proof/Decode.lean ====
section
/-! DEFINITION. The command word: its fields (30_encoding.md R71), the decoder, total on all 2^40 words (R74, R77), and the encoder. -/

namespace Sys2Proof

/-- `cmd.op`, bits 39:36 (R71). -/
def opOf (w : Word) : BitVec 4 := w.extractLsb' 36 4

/-- `cmd.tap`, bit 32 (R71, R73). -/
def tapOf (w : Word) : Tap := if w.getLsbD 32 then .tap1 else .tap0

/-- `cmd.data`, bits 31:0 (R71). -/
def dataOf (w : Word) : Data := w.extractLsb' 0 32

/-- The command a word selects: bits 39 to 36 are `op`, all 16 values of which are assigned (R74).
Bits 35:33 and every field the command does not use are ignored (R75, R76), and no word is rejected (R77). -/
def decode (w : Word) : Instr :=
  match w.getLsbD 39, w.getLsbD 38, w.getLsbD 37, w.getLsbD 36 with
  | false, false, false, false => .nop
  | false, false, false, true => .step
  | false, false, true, false => .ldsmp (tapOf w) ((dataOf w).extractLsb' 0 16)
  | false, false, true, true => .rdsmp (tapOf w)
  | false, true, false, false => .wrfc (dataOf w)
  | false, true, false, true => .wrstart (dataOf w)
  | false, true, true, false => .wrend (dataOf w)
  | false, true, true, true => .wracc (dataOf w)
  | true, false, false, false => .wrcr ((dataOf w).extractLsb' 0 8)
  | true, false, false, true => .rdfc
  | true, false, true, false => .rdstart
  | true, false, true, true => .rdend
  | true, true, false, false => .rdacc
  | true, true, false, true => .rdcr
  | true, true, true, false => .irqclr
  | true, true, true, true => .reset

/-- Why a string of bits is no command word. -/
inductive DecodeReject
  /-- More than 40 bits: every command word is 40 bits long (R70). -/
  | longerThanOneWord
deriving DecidableEq, Repr

/-- The instruction in a string of `nbits` bits of value `w`, its missing high bits 0; rejected by name above 40 bits (log 7). -/
def decodeBits (nbits w : Nat) : Except DecodeReject Instr :=
  if nbits ≤ 40 then .ok (decode (BitVec.ofNat 40 (w % 2 ^ nbits))) else .error .longerThanOneWord

/-- The instruction the decoder reads from a row's word, numbered as spec/opcode_table.json numbers it. -/
def decodeTableWord (nbits w : Nat) : Option Instr := (decodeBits nbits w).toOption

/-- A tap index as the bit of the command word. -/
def Tap.toBit : Tap → BitVec 1
  | .tap0 => 0#1
  | .tap1 => 1#1

/-- The layout `oooo rrr t dddddddd dddddddd dddddddd dddddddd` (R71). -/
def packWord (op : BitVec 4) (rsv : BitVec 3) (tap : BitVec 1) (data : Data) : Word :=
  op ++ rsv ++ tap ++ data

/-- The opcode of R74. -/
def Instr.op : Instr → BitVec 4
  | .nop => 0x0#4
  | .step => 0x1#4
  | .ldsmp _ _ => 0x2#4
  | .rdsmp _ => 0x3#4
  | .wrfc _ => 0x4#4
  | .wrstart _ => 0x5#4
  | .wrend _ => 0x6#4
  | .wracc _ => 0x7#4
  | .wrcr _ => 0x8#4
  | .rdfc => 0x9#4
  | .rdstart => 0xA#4
  | .rdend => 0xB#4
  | .rdacc => 0xC#4
  | .rdcr => 0xD#4
  | .irqclr => 0xE#4
  | .reset => 0xF#4

/-- The `tap` bit an instruction is encoded with: 0 where it has no tap (R79). -/
def Instr.tapBit : Instr → BitVec 1
  | .ldsmp t _ | .rdsmp t => t.toBit
  | .nop | .step | .wrfc _ | .wrstart _ | .wrend _ | .wracc _ | .wrcr _ | .rdfc | .rdstart | .rdend | .rdacc | .rdcr | .irqclr
  | .reset => 0#1

/-- The data field an instruction is encoded with: unused bits 0 (R79). -/
def Instr.dataField : Instr → Data
  | .ldsmp _ v => v.setWidth 32
  | .wrcr cr => cr.setWidth 32
  | .wrfc d | .wrstart d | .wrend d | .wracc d => d
  | .nop | .step | .rdsmp _ | .rdfc | .rdstart | .rdend | .rdacc | .rdcr | .irqclr | .reset => 0#32

/-- The word of an instruction, reserved and unused bits 0 (R71, R74, R75, R79). -/
def encode (i : Instr) : Word := packWord i.op 0#3 i.tapBit i.dataField

end Sys2Proof
end

