-- ==== Sys2Proof/Config.lean ====
section
/-! DEFINITION. The configuration record of the block (00_scope.md R5) and the two reference configurations (R6). -/

namespace Sys2Proof

/-- The parameters the spec leaves OPEN (00_scope.md R5).
A state carries one, and no command changes it: it is the `cfg` argument of the spec's step function. -/
structure Config where
  /-- `INT_BITS`: integer bits of `accum`. -/
  intBits : Nat
  /-- `FRAC_BITS`: fraction bits of `accum`. -/
  fracBits : Nat
  /-- `FC_BITS`: width of the `fc` register. -/
  fcBits : Nat
  /-- `TRANSWAVE`: whether the variant is transwave-capable. -/
  transwave : Bool
deriving DecidableEq, Repr

namespace Config

/-- `W_BITS`: the number of top fraction bits used as interpolation weight (R5, 92 D8). -/
def wBits : Nat := 9

/-- `SMP_BITS`: the width of a fetched sample (R5, 92 D7). -/
def smpBits : Nat := 16

/-- `ACC_BITS`: the total width of `accum` (R5). -/
def accBits (c : Config) : Nat := c.intBits + c.fracBits

/-- `GUARD_BITS`: the fraction bits below the interpolation weight (R5). -/
def guardBits (c : Config) : Nat := c.fracBits - wBits

/-- `CFG-A` of R6, for a given `FC_BITS` (R6 leaves it open). -/
def cfgA (fcBits : Nat) : Config := ⟨20, 9, fcBits, false⟩

/-- `CFG-B` of R6, for a given `FC_BITS`. -/
def cfgB (fcBits : Nat) : Config := ⟨21, 11, fcBits, true⟩

/-- The configuration of `Machine.State.reset`: CFG-A with the widest `FC_BITS` that R5 allows.
DESIGN CHOICE (log 2): the parameters are OPEN, and no statement rests on these values. -/
def initial : Config := cfgA 29

end Config

end Sys2Proof
end

