-- ==== Sys2Proof/Machine/State.lean ====
section
/-! DEFINITION. The state of one accumulator instance (10_state.md R20), the answer of a command (00_scope.md R11), the reset
state (R41, 70_reset_and_hazards.md R220), and the reasons a step can stop. -/

namespace Sys2Proof.Machine

/-- `out`, the second result of the spec's step function (R11). -/
structure Out where
  /-- `rdata`: present only for the read commands. -/
  rdata : Option Data
  /-- `xing`: true only when a `STEP` command detected a loop-boundary crossing. -/
  xing : Bool
deriving DecidableEq, Repr

/-- The block's registers and control bits (R20), and three fields of the model's own: `cfg`, `port` and `out`.
A 1-bit field is true when it is 1 (R8). -/
@[ext]
structure State where
  /-- The model's own field: the configuration (00_scope.md R5), which the spec passes to the step function as an argument.
  No command changes it (log 1). -/
  cfg : Config
  /-- `ACC_BITS` wide, unsigned (R23), held in 32 bits (log 4). -/
  accum : Data
  /-- `FC_BITS` wide, unsigned (R25), held in 32 bits. -/
  fc : Data
  /-- `ACC_BITS` wide, unsigned, fraction bits 0 (R26), held in 32 bits. -/
  start : Data
  /-- The register `end`: `ACC_BITS` wide, unsigned, fraction bits 0 (R27), held in 32 bits. -/
  end_ : Data
  /-- `sample[0]`, two's complement (R28). -/
  sample0 : Sample
  /-- `sample[1]`, two's complement (R28). -/
  sample1 : Sample
  /-- ALU-initiated stop (R30). -/
  stop0 : Bool
  /-- Host-initiated stop (R31). -/
  stop1 : Bool
  /-- Loop-end-ignore (R37). -/
  lei : Bool
  /-- Loop enable (R32). -/
  lpe : Bool
  /-- Bidirectional-loop enable (R33). -/
  ble : Bool
  /-- IRQ-on-loop enable (R34). -/
  irqe : Bool
  /-- Playback direction: false (0) forward, true (1) reverse (R35). -/
  dir : Bool
  /-- Latched pending-IRQ bit (R36). -/
  irq : Bool
  /-- The model's own field: the command words presented to the port and not yet executed, oldest first (R22, log 3). -/
  port : List Word
  /-- The model's own field: the answer of the command executed last (R11). Nothing reads it (R43, log 5). -/
  out : Out
deriving DecidableEq, Repr

/-- The block raises no exception, trap or fault of any kind (60_exceptions.md R200): there is no reason to stop, so this type
has no constructor and no one raises it. -/
inductive Fault
deriving DecidableEq, Repr

/-- No meaning refuses: every word decodes to a command that has its effect (30_encoding.md R77). -/
inductive Refusal
  /-- An instruction whose meaning is not written. Raised by no one in this model, where every arm of `exec` calls a meaning. Safe. -/
  | notModelled (mnemonic : String)
deriving DecidableEq, Repr

/-- The reset values of R41 for a given configuration, with no command presented and nothing answered (logs 3 and 5). -/
def State.resetWith (cfg : Config) : State where
  cfg := cfg
  accum := 0
  fc := 0
  start := 0
  end_ := 0
  sample0 := 0
  sample1 := 0
  stop0 := false
  stop1 := false
  lei := false
  lpe := false
  ble := false
  irqe := false
  dir := false
  irq := false
  port := []
  out := ⟨none, false⟩

/-- The machine right after reset (R41, R220). Its configuration is a DESIGN CHOICE (log 2). -/
def State.reset : State := State.resetWith Config.initial

end Sys2Proof.Machine
end

