-- ==== Sys2Proof/Machine/Ops.lean ====
section
/-! DEFINITION. The arithmetic of the spec's pseudocode (00_scope.md R7, R8), the accessors of the registers, and the one
operation by which a command answers.
There is no operation that takes an exception and none that returns from one: the block has no trap entry and no trap return
(60_exceptions.md R200, R207). Its interrupt is the latched bit `irq` (Flags.lean). There is no memory (20_memory.md R50). -/

namespace Sys2Proof.Machine

/-- `mask_N(v)`: `v mod 2^N`, in `0 .. 2^N - 1` also for negative `v` (R8). -/
def maskN (n : Nat) (v : Int) : Nat := (v % 2 ^ n).toNat

/-- `asr(v, k)`: `floor(v / 2^k)` (R8). -/
def asr (v : Int) (k : Nat) : Int := v / 2 ^ k

/-- The field of `width` bits of `v` from bit `lo` up, `v[lo + width - 1 : lo]`; 0 when `width` is 0 (R7). -/
def field (v lo width : Nat) : Nat := v / 2 ^ lo % 2 ^ width

namespace State

/-- Every write to `accum` stores `mask_ACC_BITS(v)` of the computed integer `v` (10_state.md R23, R114). -/
def setAccum (s : State) (v : Int) : State :=
  { s with accum := BitVec.ofNat 32 (maskN s.cfg.accBits v) }

/-- The tap `sample[t]` (10_state.md R28). -/
def tap (s : State) : Tap → Sample
  | .tap0 => s.sample0
  | .tap1 => s.sample1

/-- `sample[t] <- v`, the other tap unchanged (41_sample_path.md R135). -/
def setTap (s : State) (t : Tap) (v : Sample) : State :=
  match t with
  | .tap0 => { s with sample0 := v }
  | .tap1 => { s with sample1 := v }

/-- A command's answer, in place of the one before (00_scope.md R11). -/
def answer (s : State) (o : Out) : State := { s with out := o }

end State

/-- The answer of a command that reads nothing and crosses nothing. -/
def Out.idle : Out := ⟨none, false⟩

/-- The answer of a read command: `rdata` present, no crossing. -/
def Out.data (d : Data) : Out := ⟨some d, false⟩

/-- The answer of a `STEP` that detected a crossing (40_step_loop.md R100). -/
def Out.crossing : Out := ⟨none, true⟩

/-- The word the block receives in a cycle in which nothing is presented: a `NOP` (43_control.md R180). -/
def nopWord : Word := 0x0000000000#40

/-- The command of this cycle, and the state in which it runs: the oldest word presented, taken off the port, or a `NOP` when
none is (30_encoding.md R70, 20_memory.md R59, 43_control.md R180). -/
def fetch (s : State) : Word × State :=
  match s.port with
  | [] => (nopWord, s)
  | w :: rest => (w, { s with port := rest })

/-- The enclosing blocks present a sequence of commands, after those already waiting (20_memory.md R59). -/
def State.presentAll (s : State) (ws : List Word) : State := { s with port := s.port ++ ws }

end Sys2Proof.Machine
end

