-- ==== Sys2Proof/Machine/Control.lean ====
section
/-! DEFINITION. The control commands (43_control.md). -/

namespace Sys2Proof.Machine

/-- Every element of the block to its reset value (R182, 10_state.md R41).
The configuration and the commands still waiting on the port are not elements of the block. -/
def State.clear (s : State) : State := { State.resetWith s.cfg with port := s.port }

/-- `NOP` (R180). -/
def execNop (s : State) : Host.Outcome State Fault Refusal := .next (s.answer Out.idle)

/-- `IRQCLR` (R181). -/
def execIrqclr (s : State) : Host.Outcome State Fault Refusal := .next (({ s with irq := false } : State).answer Out.idle)

/-- `RESET` (R182). -/
def execReset (s : State) : Host.Outcome State Fault Refusal := .next (s.clear.answer Out.idle)

end Sys2Proof.Machine
end

