-- ==== Sys2Proof/Machine/Flags.lean ====
section
/-! DEFINITION. The control bits: the derived flag `busy` (10_state.md R38), the control-register view (R39), the crossing test
(40_step_loop.md R104) and the interrupt latch (R105). -/

namespace Sys2Proof.Machine.State

/-- `busy`: both stop bits are clear (R38). -/
def busy (s : State) : Bool := !s.stop0 && !s.stop1

/-- The control word `{24'b0, irq, dir, irqe, ble, lpe, lei, stop1, stop0}` (R39). -/
def crWord (irq dir irqe ble lpe lei stop1 stop0 : Bool) : Data :=
  0#24 ++ BitVec.ofBool irq ++ BitVec.ofBool dir ++ BitVec.ofBool irqe ++ BitVec.ofBool ble ++ BitVec.ofBool lpe ++
    BitVec.ofBool lei ++ BitVec.ofBool stop1 ++ BitVec.ofBool stop0

/-- The control-register view `CR(s)` (R39). -/
def crView (s : State) : Data := crWord s.irq s.dir s.irqe s.ble s.lpe s.lei s.stop1 s.stop0

/-- All eight control bits from `cmd.data[7:0]` (42_register_access.md R155). -/
def loadCr (s : State) (cr : BitVec 8) : State :=
  { s with
    stop0 := cr.getLsbD 0
    stop1 := cr.getLsbD 1
    lei := cr.getLsbD 2
    lpe := cr.getLsbD 3
    ble := cr.getLsbD 4
    irqe := cr.getLsbD 5
    dir := cr.getLsbD 6
    irq := cr.getLsbD 7 }

/-- The loop boundary is crossed: `lei` is clear, and the position lies strictly below `start` in reverse or strictly above
`end` going forward, unsigned (R104). Read on the state `tick` has moved. -/
def crossed (s : State) : Bool := !s.lei && (s.dir && s.accum.ult s.start || !s.dir && s.end_.ult s.accum)

/-- `if irqe == 1 then irq <- 1` (R105). -/
def latchIrq (s : State) : State := if s.irqe then { s with irq := true } else s

end Sys2Proof.Machine.State
end

