-- ==== Sys2Proof/Machine/LoopControl.lean ====
section
/-! DEFINITION. `STEP` and the two operations it is built from, `tick` and `loop_exec` (40_step_loop.md). -/

namespace Sys2Proof.Machine

namespace State

/-- `tick`: advance by `fc`, added forward (R102), subtracted in reverse (R103). -/
def tick (s : State) : State :=
  if s.dir then s.setAccum (s.accum.toNat - s.fc.toNat) else s.setAccum (s.accum.toNat + s.fc.toNat)

/-- Move `accum` to its reflection about a boundary (R106, R110). -/
def reflect (s : State) (boundary : Data) : State :=
  s.setAccum (boundary.toNat + (boundary.toNat - s.accum.toNat : Int))

/-- Wrap `accum`: as far from `target` as it lies beyond the boundary `crossing` it passed (R107, R108, R111, R112). -/
def wrap (s : State) (crossing target : Data) : State :=
  s.setAccum (target.toNat - (crossing.toNat - s.accum.toNat : Int))

/-- The transwave one-shot conversion of the control bits: looping off, loop checks off (R108, R112). -/
def convert (s : State) : State := { s with lpe := false, ble := false, lei := true }

/-- The loop policy of a reverse crossing (R106 to R109). -/
def reverseCrossing (s : State) : State :=
  if s.lpe && s.ble then { s.reflect s.start with dir := false }
  else if s.lpe then s.wrap s.start s.end_
  else if s.ble && s.cfg.transwave then s.convert.wrap s.start s.end_
  else { s with stop0 := true }

/-- The loop policy of a forward crossing (R110 to R113). -/
def forwardCrossing (s : State) : State :=
  if s.lpe && s.ble then { s.reflect s.end_ with dir := true }
  else if s.lpe then s.wrap s.end_ s.start
  else if s.ble && s.cfg.transwave then s.convert.wrap s.end_ s.start
  else { s with stop0 := true }

/-- `loop_exec`, run only on a crossing: the interrupt latch, then one branch (R105, R115). -/
def loopExec (s : State) : State :=
  let s := s.latchIrq
  if s.dir then s.reverseCrossing else s.forwardCrossing

/-- `tick`, and `loop_exec` if it crossed (R116 past the busy check). -/
def tickAndLoop (s : State) : State :=
  let t := s.tick
  if t.crossed then t.loopExec.answer Out.crossing else t.answer Out.idle

/-- One `STEP`: nothing while not busy (R101), else `tick` and the loop policy (R116). -/
def advance (s : State) : State := if s.busy then s.tickAndLoop else s.answer Out.idle

end State

/-- `STEP` (R100). -/
def execStep (s : State) : Host.Outcome State Fault Refusal := .next s.advance

end Sys2Proof.Machine
end

