-- ==== Sys2Proof/Machine/Operands.lean ====
section
/-! DEFINITION. How a command reads `cmd.data`, every form of 30_encoding.md R72, and how the result is widened for `rdata`.
The `CR` form is in Flags.lean. No value is scaled or shifted. -/

namespace Sys2Proof.Machine

/-- `WRFC`: `cmd.data[FC_BITS-1:0]`, zero-extended (R72, R151). -/
def fcOperand (c : Config) (d : Data) : Data := BitVec.ofNat 32 (field d.toNat 0 c.fcBits)

/-- `WRSTART`, `WREND`: `cmd.data[ACC_BITS-1:FRAC_BITS]` in place, fraction bits 0 (R72, R152, R153). -/
def boundaryOperand (c : Config) (d : Data) : Data :=
  BitVec.ofNat 32 (field d.toNat c.fracBits c.intBits * 2 ^ c.fracBits)

/-- `WRACC`: the integer whose low `ACC_BITS` bits `State.setAccum` keeps (R72, R154). -/
def accOperand (d : Data) : Int := d.toNat

/-- `rdata` of a 16-bit tap: the pattern in bits 15:0, bits 31:16 zero (41_sample_path.md R136). -/
def tapData (v : Sample) : Data := v.setWidth 32

namespace State

/-- `fc <- v`. -/
def setFc (s : State) (v : Data) : State := { s with fc := v }

/-- `start <- v`. -/
def setStart (s : State) (v : Data) : State := { s with start := v }

/-- `end <- v`. -/
def setEnd (s : State) (v : Data) : State := { s with end_ := v }

end State

end Sys2Proof.Machine
end

