-- ==== Sys2Proof/Machine/RegisterAccess.lean ====
section
/-! DEFINITION. The register access commands (42_register_access.md). A write changes only the register it names and runs
neither `tick` nor `loop_exec` (R150); a read changes nothing (20_memory.md R56). -/

namespace Sys2Proof.Machine

/-- `WRFC` (R151). -/
def execWrfc (d : Data) (s : State) : Host.Outcome State Fault Refusal := .next ((s.setFc (fcOperand s.cfg d)).answer Out.idle)

/-- `WRSTART` (R152). -/
def execWrstart (d : Data) (s : State) : Host.Outcome State Fault Refusal :=
  .next ((s.setStart (boundaryOperand s.cfg d)).answer Out.idle)

/-- `WREND` (R153). -/
def execWrend (d : Data) (s : State) : Host.Outcome State Fault Refusal :=
  .next ((s.setEnd (boundaryOperand s.cfg d)).answer Out.idle)

/-- `WRACC` (R154): fraction bits kept, no crossing check. -/
def execWracc (d : Data) (s : State) : Host.Outcome State Fault Refusal := .next ((s.setAccum (accOperand d)).answer Out.idle)

/-- `WRCR` (R155 to R157): all eight control bits, `irq`, `stop0` and `lei` included. -/
def execWrcr (cr : BitVec 8) (s : State) : Host.Outcome State Fault Refusal := .next ((s.loadCr cr).answer Out.idle)

/-- `RDFC` (R158). -/
def execRdfc (s : State) : Host.Outcome State Fault Refusal := .next (s.answer (Out.data s.fc))

/-- `RDSTART` (R159). -/
def execRdstart (s : State) : Host.Outcome State Fault Refusal := .next (s.answer (Out.data s.start))

/-- `RDEND` (R160). -/
def execRdend (s : State) : Host.Outcome State Fault Refusal := .next (s.answer (Out.data s.end_))

/-- `RDACC` (R161). -/
def execRdacc (s : State) : Host.Outcome State Fault Refusal := .next (s.answer (Out.data s.accum))

/-- `RDCR` (R162): it does not clear `irq`. -/
def execRdcr (s : State) : Host.Outcome State Fault Refusal := .next (s.answer (Out.data s.crView))

end Sys2Proof.Machine
end

