-- ==== Sys2Proof/Machine/SamplePath.lean ====
section
/-! DEFINITION. The address outputs, the interpolator, the record of combinational outputs, and the commands that move samples
(41_sample_path.md, 10_state.md R40). -/

namespace Sys2Proof.Machine

namespace State

/-- `acc_int = accum[ACC_BITS-1:FRAC_BITS]` (R130). -/
def accInt (s : State) : Nat := field s.accum.toNat s.cfg.fracBits s.cfg.intBits

/-- `addr0 = acc_int` (R134). -/
def addr0 (s : State) : Nat := s.accInt

/-- `addr1 = mask_INT_BITS(acc_int + 1)` (R134). -/
def addr1 (s : State) : Nat := maskN s.cfg.intBits (s.accInt + 1)

/-- The interpolation weight `accum[FRAC_BITS-1:GUARD_BITS]`, `W_BITS` bits (R131). -/
def weight (s : State) : Nat := field s.accum.toNat s.cfg.guardBits Config.wBits

/-- `interp = sample[0] + asr(weight * (sample[1] - sample[0]), W_BITS)`, the product exact and the shift a floor
(R131, R133), as a signed 16-bit value. -/
def interp (s : State) : Sample :=
  BitVec.ofInt 16 (s.sample0.toInt + asr (s.weight * (s.sample1.toInt - s.sample0.toInt)) Config.wBits)

/-- `irq_out = irq`, not gated by `irqe` (60_exceptions.md R205). -/
def irqOut (s : State) : Bool := s.irq

end State

/-- The combinational outputs, functions of the current state only (10_state.md R40). -/
structure Outputs where
  busy : Bool
  irqOut : Bool
  accInt : Nat
  addr0 : Nat
  addr1 : Nat
  interp : Sample
deriving DecidableEq, Repr

/-- What the block drives in this state (R40). -/
def State.outputs (s : State) : Outputs := ⟨s.busy, s.irqOut, s.accInt, s.addr0, s.addr1, s.interp⟩

/-- `LDSMP` (R135): the field `data[15:0]` already is the two's complement pattern of `sext_16`. -/
def execLdsmp (t : Tap) (v : Sample) (s : State) : Host.Outcome State Fault Refusal := .next ((s.setTap t v).answer Out.idle)

/-- `RDSMP` (R136). -/
def execRdsmp (t : Tap) (s : State) : Host.Outcome State Fault Refusal := .next (s.answer (Out.data (tapData (s.tap t))))

end Sys2Proof.Machine
end

