-- ==== Sys2Proof/Machine/Dispatch.lean ====
section
/-! DEFINITION. One arm per command: the meaning it calls. -/

namespace Sys2Proof.Machine

/-- The spec's `step(cfg, s, cmd) -> (s', out)` (00_scope.md R11): `cfg` is `s.cfg`, and `out` is the next state's field `out`. -/
def exec (i : Instr) (s : State) : Host.Outcome State Fault Refusal :=
  match i with
  | .nop => Sys2Proof.Machine.execNop s
  | .step => Sys2Proof.Machine.execStep s
  | .ldsmp t v => Sys2Proof.Machine.execLdsmp t v s
  | .rdsmp t => Sys2Proof.Machine.execRdsmp t s
  | .wrfc d => Sys2Proof.Machine.execWrfc d s
  | .wrstart d => Sys2Proof.Machine.execWrstart d s
  | .wrend d => Sys2Proof.Machine.execWrend d s
  | .wracc d => Sys2Proof.Machine.execWracc d s
  | .wrcr cr => Sys2Proof.Machine.execWrcr cr s
  | .rdfc => Sys2Proof.Machine.execRdfc s
  | .rdstart => Sys2Proof.Machine.execRdstart s
  | .rdend => Sys2Proof.Machine.execRdend s
  | .rdacc => Sys2Proof.Machine.execRdacc s
  | .rdcr => Sys2Proof.Machine.execRdcr s
  | .irqclr => Sys2Proof.Machine.execIrqclr s
  | .reset => Sys2Proof.Machine.execReset s

end Sys2Proof.Machine
end

