-- ==== Sys2Proof/Machine/Step.lean ====
section
/-! DEFINITION. One cycle of the block: take the command presented, decode it, run it (30_encoding.md R70). -/

namespace Sys2Proof.Machine

/-- One cycle (00_scope.md R11). The block has no program counter: the command comes from the port (10_state.md R22). -/
def step (s : State) : Host.Outcome State Fault Refusal := exec (decode (fetch s).1) (fetch s).2

/-- `s` with a word presented ahead of every waiting one, so that the next step runs it. -/
def State.withFetchWord (s : State) (nbits w : Nat) : State := { s with port := BitVec.ofNat 40 (w % 2 ^ nbits) :: s.port }

end Sys2Proof.Machine
end

