-- ==== Sys2Proof/Assembly.lean ====
section
/-! DEFINITION. The assembler's lines (30_encoding.md R79) and pseudo-instructions (R80), as abstract syntax.
Operands are the integers a line writes, in range or not. Machine/Assembler.lean turns a line into command words. -/

namespace Sys2Proof

/-- One line of the assembler syntax. -/
inductive Asm
  | nop
  | step
  | ldsmp (tap value : Int)
  | rdsmp (tap : Int)
  | wrfc (value : Int)
  | wrstart (value : Int)
  | wrend (value : Int)
  | wracc (value : Int)
  | wrcr (value : Int)
  | rdfc
  | rdstart
  | rdend
  | rdacc
  | rdcr
  | irqclr
  | reset
  /-- `KEYON <cr>`: the control bits with both stop bits 0. -/
  | keyon (cr : Int)
  /-- `KEYOFF <cr>`: the control bits with `stop1 = 1`. -/
  | keyoff (cr : Int)
  /-- `FETCH <s0>, <s1>`: deliver both taps. -/
  | fetch (s0 s1 : Int)
  /-- `SETLOOP <st>, <en>`: set both loop boundaries. -/
  | setloop (st en : Int)
deriving DecidableEq, Repr

end Sys2Proof
end

