-- ==== Sys2Proof/WellFormed.lean ====
section
/-! DEFINITION. What is checked before it is used: a configuration (00_scope.md R5) and an assembler line (30_encoding.md R79).
A term of `Instr` needs no check: its operands have exactly the widths of the fields, and every value of every field is
allowed (R76, R77). -/

namespace Sys2Proof

/-- The constraints a well-formed configuration meets (R5): `INT_BITS >= 1`, `FRAC_BITS >= W_BITS`, `ACC_BITS <= 32`,
`1 <= FC_BITS <= ACC_BITS`. -/
abbrev Config.WF (c : Config) : Prop :=
  1 ≤ c.intBits ∧ Config.wBits ≤ c.fracBits ∧ c.accBits ≤ 32 ∧ 1 ≤ c.fcBits ∧ c.fcBits ≤ c.accBits

/-- The range of a tap operand: 0 or 1 (R79). -/
abbrev Asm.TapInRange (tap : Int) : Prop := tap = 0 ∨ tap = 1

/-- The range of an `LDSMP` value (R79). -/
abbrev Asm.SampleInRange (value : Int) : Prop := -32768 ≤ value ∧ value ≤ 65535

/-- The range of a data value (R79): `0..2^32-1`. -/
abbrev Asm.DataInRange (value : Int) : Prop := 0 ≤ value ∧ value ≤ 2 ^ 32 - 1

/-- Every operand of the line is in its stated range (R79).
A pseudo-instruction's operand has the range of the instruction it expands to (log 8, DEDUCED). -/
def Asm.wf : Asm → Bool
  | .nop | .step | .rdfc | .rdstart | .rdend | .rdacc | .rdcr | .irqclr | .reset => true
  | .ldsmp tap value => decide (TapInRange tap) && decide (SampleInRange value)
  | .rdsmp tap => decide (TapInRange tap)
  | .wrfc v | .wrstart v | .wrend v | .wracc v | .wrcr v => decide (DataInRange v)
  | .keyon cr | .keyoff cr => decide (DataInRange cr)
  | .fetch s0 s1 => decide (SampleInRange s0) && decide (SampleInRange s1)
  | .setloop st en => decide (DataInRange st) && decide (DataInRange en)

end Sys2Proof
end

