-- ==== Sys2Proof/Machine/Assembler.lean ====
section
/-! DEFINITION. The assembler of the spec's test programs: the word of a line (30_encoding.md R79) and the expansion of the
pseudo-instructions (R80). The block itself refuses nothing (R77); only the assembler does. -/

namespace Sys2Proof

/-- The assembled word `op << 36 | tap << 32 | d`, with `rsv = 0` (R79). -/
def asmWord (op : BitVec 4) (tap d : Int) : Word := packWord op 0#3 (BitVec.ofInt 1 tap) (BitVec.ofInt 32 d)

/-- The `d` of an `LDSMP` value: `value + 65536` below 0, so that `data[31:16] = 0`, else `value` (R79). -/
def sampleD (value : Int) : Int := if value < 0 then value + 65536 else value

/-- `<cr> & 0xFC`, as an integer (R80). -/
def keyOnCr (cr : Int) : Int := (cr.toNat &&& 0xFC : Nat)

/-- `(<cr> & 0xFF) | 0x02`, as an integer (R80). -/
def keyOffCr (cr : Int) : Int := (cr.toNat &&& 0xFF ||| 0x02 : Nat)

namespace Asm

/-- The words of a line, its operands taken as in range (R79, R80). -/
def words : Asm → List Word
  | .nop => [asmWord 0x0 0 0]
  | .step => [asmWord 0x1 0 0]
  | .ldsmp tap value => [asmWord 0x2 tap (sampleD value)]
  | .rdsmp tap => [asmWord 0x3 tap 0]
  | .wrfc v => [asmWord 0x4 0 v]
  | .wrstart v => [asmWord 0x5 0 v]
  | .wrend v => [asmWord 0x6 0 v]
  | .wracc v => [asmWord 0x7 0 v]
  | .wrcr v => [asmWord 0x8 0 v]
  | .rdfc => [asmWord 0x9 0 0]
  | .rdstart => [asmWord 0xA 0 0]
  | .rdend => [asmWord 0xB 0 0]
  | .rdacc => [asmWord 0xC 0 0]
  | .rdcr => [asmWord 0xD 0 0]
  | .irqclr => [asmWord 0xE 0 0]
  | .reset => [asmWord 0xF 0 0]
  | .keyon cr => [asmWord 0x8 0 (keyOnCr cr)]
  | .keyoff cr => [asmWord 0x8 0 (keyOffCr cr)]
  | .fetch s0 s1 => [asmWord 0x2 0 (sampleD s0), asmWord 0x2 1 (sampleD s1)]
  | .setloop st en => [asmWord 0x5 0 st, asmWord 0x6 0 en]

/-- A line's words; a line with an operand outside its stated range is refused (R79). -/
def assemble (a : Asm) : Option (List Word) := if a.wf then some a.words else none

end Asm

end Sys2Proof
end

