-- ==== Sys2Proof/Machine/Chip.lean ====
section
/-! DEFINITION. Several instances side by side: one per voice, sharing no state (60_exceptions.md R210, 20_memory.md R59), each
given one command per cycle (30_encoding.md R70). How many there are is the chip's (00_scope.md R2); which commands they get is
the scheduler's (70_reset_and_hazards.md R230). -/

namespace Sys2Proof.Machine.Chip

/-- One cycle of a row of instances: instance `k` runs the `k`-th command word, and a `NOP` where none is given (R180). -/
def cycle : List State → List Word → Host.Outcome (List State) Fault Refusal
  | [], _ => .next []
  | s :: ss, ws =>
    match exec (decode (ws.headD nopWord)) s with
    | .next t =>
      match cycle ss ws.tail with
      | .next ts => .next (t :: ts)
      | .fault r => .fault r
      | .refused r => .refused r
    | .fault r => .fault r
    | .refused r => .refused r

/-- A chip reset: `RESET` to every instance in the same cycle (43_control.md R183). -/
def chipReset (c : List State) : Host.Outcome (List State) Fault Refusal := cycle c (List.replicate c.length (encode .reset))

/-- A command for instance `k` alone: every other instance gets a `NOP`. -/
def toVoice (k : Nat) (w : Word) (n : Nat) : List Word := (List.replicate n nopWord).set k w

end Sys2Proof.Machine.Chip
end

