-- ==== Sys2Proof/Machine/Protocol.lean ====
section
/-! DEFINITION. The command sequences the spec gives to the enclosing blocks: a voice's slot (41_sample_path.md R137,
70_reset_and_hazards.md R230), the boot and key-on order (R222), and the snapshot (10_state.md R44).
The block enforces none of them (R223); they are inputs of the model, not part of its step. -/

namespace Sys2Proof.Machine

/-- The commands of one scheduler slot (R137, R230). `callback` is the external memory-read callback for this voice and bank
(20_memory.md R50), applied to the fetch addresses `addr0` and `addr1`. A stopped voice fetches nothing (90_conflicts.md C6). -/
def slotCommands (callback : Nat → Sample) (s : State) : List Word :=
  if s.busy then [encode (.ldsmp .tap0 (callback s.addr0)), encode (.ldsmp .tap1 (callback s.addr1)), encode .step]
  else [encode .step]

/-- The boot and key-on sequence (R222): `RESET`; with the voice stopped by `KEYOFF`, the step, the boundaries and the start
position; then the control bits with both stop bits 0 and `lei` 0 (`KEYON`). -/
def bootLines (fc start end_ accum : Data) (cr : BitVec 8) : List Asm :=
  [.reset, .keyoff 0, .wrfc fc.toNat, .wrstart start.toNat, .wrend end_.toNat, .wracc accum.toNat, .keyon (cr &&& 0xFB#8).toNat]

/-- The words of the boot sequence. -/
def bootCommands (fc start end_ accum : Data) (cr : BitVec 8) : List Word := (bootLines fc start end_ accum cr).flatMap Asm.words

/-- The reads that return every element of the state (R44), in the order of the writes that restore them. -/
def snapshotReads : List Instr := [.rdacc, .rdfc, .rdstart, .rdend, .rdcr, .rdsmp .tap0, .rdsmp .tap1]

/-- The writes that restore a snapshot (R44), from what the reads of `snapshotReads` gave. -/
def restoreWrites (accum fc start end_ cr s0 s1 : Data) : List Instr :=
  [.wracc accum, .wrfc fc, .wrstart start, .wrend end_, .wrcr (cr.extractLsb' 0 8), .ldsmp .tap0 (s0.extractLsb' 0 16),
    .ldsmp .tap1 (s1.extractLsb' 0 16)]

/-- Run commands one after another, collecting the `rdata` each answers. -/
def runCollect : List Instr → State → Host.Outcome (List (Option Data) × State) Fault Refusal
  | [], s => .next ([], s)
  | i :: is, s =>
    match exec i s with
    | .next t =>
      match runCollect is t with
      | .next (ds, u) => .next (t.out.rdata :: ds, u)
      | .fault r => .fault r
      | .refused r => .refused r
    | .fault r => .fault r
    | .refused r => .refused r

end Sys2Proof.Machine
end

