-- ==== Sys2Proof/Safety.lean ====
section
/-! DEFINITION. What a legal state is and what a run is, in the terms the statements use. A safe run is one from legal state to legal state:
no step stops (60_exceptions.md R200). -/

namespace Sys2Proof.Machine

/-- A legal state (60_exceptions.md R200 "Every state reached is a legal state"): the configuration is well formed
(00_scope.md R5), every register fits its configured width (10_state.md R20, R23, R25), and the fraction bits of `start` and
`end` are 0 (R26, R27). -/
abbrev State.Inv (s : State) : Prop :=
  s.cfg.WF ∧ s.accum.toNat < 2 ^ s.cfg.accBits ∧ s.fc.toNat < 2 ^ s.cfg.fcBits ∧
    (s.start.toNat < 2 ^ s.cfg.accBits ∧ s.start.toNat % 2 ^ s.cfg.fracBits = 0) ∧
    (s.end_.toNat < 2 ^ s.cfg.accBits ∧ s.end_.toNat % 2 ^ s.cfg.fracBits = 0)

/-- The machine runs `n` steps from `s` without a stop and is then in `t`. -/
def Runs (n : Nat) (s t : State) : Prop :=
  match n with
  | 0 => t = s
  | k + 1 => ∃ m, step s = .next m ∧ Runs k m t

end Sys2Proof.Machine
end

