-- ==== Sys2Proof/Certificates/Slice0/Obligations.lean ====
section
/-! DEFINITION. The statements for the provers. A docstring names the rule of spec/ it formalises, the decision of
spec/92_eei_decisions.md (D<n>) behind it where the spec marks one, and the log entry where a clause is the model's own.
Three fields of a next state are the model's own everywhere: `cfg` (log 1) and `port` (log 3), which no command writes, and `out`,
the command's answer (log 5). -/

open Sys2Proof Sys2Proof.Machine

namespace Sys2Proof.Claims

/-- The position `tick` moves to, from the formulas of R102 and R103, as an integer in `0 .. 2^ACC_BITS - 1`. -/
def ticked (s : State) : Int :=
  if s.dir then ((s.accum.toNat : Int) - s.fc.toNat) % 2 ^ s.cfg.accBits
  else ((s.accum.toNat : Int) + s.fc.toNat) % 2 ^ s.cfg.accBits

/-- The crossing condition of R104, on the position `tick` moves to. -/
abbrev Crosses (s : State) : Prop :=
  s.lei = false ∧ (s.dir = true ∧ ticked s < s.start.toNat ∨ s.dir = false ∧ (s.end_.toNat : Int) < ticked s)

/-- Neither stop bit is set (R38). -/
abbrev Running (s : State) : Prop := s.stop0 = false ∧ s.stop1 = false

/-- The bits of the command word that the command selected by `op` reads (30_encoding.md R71 to R76). -/
def usedBits (op : Nat) : Word :=
  if op = 0x2 then 0xF10000FFFF#40
  else if op = 0x3 then 0xF100000000#40
  else if op = 0x4 ∨ op = 0x5 ∨ op = 0x6 ∨ op = 0x7 then 0xF0FFFFFFFF#40
  else if op = 0x8 then 0xF0000000FF#40
  else 0xF000000000#40

/-- The word of a line, `op << 36 | tap << 32 | d` with `rsv = 0` (30_encoding.md R79). -/
def lineWord (op tap d : Int) : Word := BitVec.ofInt 40 (op * 2 ^ 36 + tap * 2 ^ 32 + d)

/-- The `d` of an `LDSMP` value (R79): `value + 65536` below 0, else the value. -/
def sampleField (value : Int) : Int := if value < 0 then value + 65536 else value

/-- The line assembles to this one word, and the word decodes to this command. -/
abbrev AssemblesTo (a : Asm) (w : Word) (i : Instr) : Prop := a.assemble = some [w] ∧ decode w = i

/-- Some `WRCR`. -/
def IsWrcr (i : Instr) : Prop := ∃ cr, i = .wrcr cr

end Sys2Proof.Claims

open Sys2Proof.Claims

/-! ### Encoding -/

/-- The reference encodings of R81, word by word. -/
def Obligations.ReferenceWordsDecode : Prop :=
  decode 0x0000000000#40 = .nop ∧ decode 0x1000000000#40 = .step ∧ decode 0x2100007FFF#40 = .ldsmp .tap1 0x7FFF#16 ∧
    decode 0x200000FFFF#40 = .ldsmp .tap0 (BitVec.ofInt 16 (-1)) ∧ decode 0x3100000000#40 = .rdsmp .tap1 ∧
    decode 0x4000004000#40 = .wrfc 0x4000#32 ∧ decode 0x5000000000#40 = .wrstart 0#32 ∧
    decode 0x6000100000#40 = .wrend 0x100000#32 ∧ decode 0x7000001234#40 = .wracc 0x1234#32 ∧
    decode 0x8000000008#40 = .wrcr 0x08#8 ∧ decode 0x9000000000#40 = .rdfc ∧ decode 0xA000000000#40 = .rdstart ∧
    decode 0xB000000000#40 = .rdend ∧ decode 0xC000000000#40 = .rdacc ∧ decode 0xD000000000#40 = .rdcr ∧
    decode 0xE000000000#40 = .irqclr ∧ decode 0xF000000000#40 = .reset

/-- Decoding an encoded command gives it back, for all 16 commands and every value of every operand (R71, R74; D3). -/
def Obligations.DecodeOfEncodeIsIdentity : Prop := ∀ i : Instr, decode (encode i) = i

/-- Encoding a decoded word keeps exactly the bits its command reads and clears every other, so that `rsv`, an unused `tap` and
unused `data` bits do not matter and no used bit is dropped (R72 to R76; D3, D4). -/
def Obligations.EncodeOfDecodeKeepsUsedBits : Prop :=
  ∀ w : Word, encode (decode w) = w &&& usedBits (w.toNat / 2 ^ 36)

/-- Each of the `2^40` command words decodes, and its op field selects the command (R74, R77; D3).
That more than 40 bits are rejected is the model's choice (log 7). -/
def Obligations.EveryCommandWordDecodes : Prop :=
  (∀ w : Nat, w < 2 ^ 40 → ∃ i, decodeTableWord 40 w = some i ∧ i.op.toNat = w / 2 ^ 36) ∧
    ∀ nbits w : Nat, 40 < nbits → decodeTableWord nbits w = none

/-- An assembled line with its operands in range is the one word of R79, every bit of it (`rsv` 0, `tap` 0 and `d` 0 where the
command has none), and that word decodes to the command the line names with that operand; `FETCH` and `SETLOOP` are the two words
of their expansions (R80); a line with an operand out of range is refused (D3). The operand ranges of `FETCH` and `SETLOOP` are the
model's, DEDUCED from their expansions (log 8). -/
def Obligations.AssembledLinesDecode : Prop :=
  (∀ p ∈ [(Asm.nop, 0x0000000000#40, Instr.nop), (.step, 0x1000000000#40, .step), (.rdsmp 0, 0x3000000000#40, .rdsmp .tap0),
      (.rdsmp 1, 0x3100000000#40, .rdsmp .tap1), (.rdfc, 0x9000000000#40, .rdfc), (.rdstart, 0xA000000000#40, .rdstart),
      (.rdend, 0xB000000000#40, .rdend), (.rdacc, 0xC000000000#40, .rdacc), (.rdcr, 0xD000000000#40, .rdcr),
      (.irqclr, 0xE000000000#40, .irqclr), (.reset, 0xF000000000#40, .reset)], AssemblesTo p.1 p.2.1 p.2.2) ∧
  (∀ v : Int, -32768 ≤ v → v ≤ 65535 →
    AssemblesTo (.ldsmp 0 v) (lineWord 0x2 0 (sampleField v)) (.ldsmp .tap0 (BitVec.ofInt 16 v)) ∧
    AssemblesTo (.ldsmp 1 v) (lineWord 0x2 1 (sampleField v)) (.ldsmp .tap1 (BitVec.ofInt 16 v))) ∧
  (∀ v : Int, 0 ≤ v → v ≤ 2 ^ 32 - 1 →
    AssemblesTo (.wrfc v) (lineWord 0x4 0 v) (.wrfc (BitVec.ofInt 32 v)) ∧
    AssemblesTo (.wrstart v) (lineWord 0x5 0 v) (.wrstart (BitVec.ofInt 32 v)) ∧
    AssemblesTo (.wrend v) (lineWord 0x6 0 v) (.wrend (BitVec.ofInt 32 v)) ∧
    AssemblesTo (.wracc v) (lineWord 0x7 0 v) (.wracc (BitVec.ofInt 32 v)) ∧
    AssemblesTo (.wrcr v) (lineWord 0x8 0 v) (.wrcr (BitVec.ofInt 8 v))) ∧
  (∀ v w : Int, -32768 ≤ v → v ≤ 65535 → -32768 ≤ w → w ≤ 65535 →
    (Asm.fetch v w).assemble = some [lineWord 0x2 0 (sampleField v), lineWord 0x2 1 (sampleField w)]) ∧
  (∀ v w : Int, 0 ≤ v → v ≤ 2 ^ 32 - 1 → 0 ≤ w → w ≤ 2 ^ 32 - 1 →
    (Asm.setloop v w).assemble = some [lineWord 0x5 0 v, lineWord 0x6 0 w]) ∧
  (∀ v w : Int, v < -32768 ∨ 65535 < v →
    (Asm.ldsmp w v).assemble = none ∧ (Asm.fetch v w).assemble = none ∧ (Asm.fetch w v).assemble = none) ∧
  (∀ tap v : Int, tap ≠ 0 → tap ≠ 1 → (Asm.ldsmp tap v).assemble = none ∧ (Asm.rdsmp tap).assemble = none) ∧
  ∀ v w : Int, v < 0 ∨ 2 ^ 32 - 1 < v →
    (Asm.wrfc v).assemble = none ∧ (Asm.wrstart v).assemble = none ∧ (Asm.wrend v).assemble = none ∧
      (Asm.wracc v).assemble = none ∧ (Asm.wrcr v).assemble = none ∧ (Asm.setloop v w).assemble = none ∧
      (Asm.setloop w v).assemble = none

/-- `KEYON <cr>` is the word of `WRCR (cr & 0xFC)` and `KEYOFF <cr>` that of `WRCR ((cr & 0xFF) | 0x02)`, for every operand up to
`2^32 - 1`: run in any state, the first leaves both stop bits 0 and the second leaves `stop1` 1, every other control bit is the
operand's, and nothing else changes (R80; D3, D17). An operand out of range is refused. The range is the model's, DEDUCED from the
expansion (log 8). -/
def Obligations.KeyOnStartsAndKeyOffStops : Prop :=
  (∀ (cr : Nat) (s : State), cr ≤ 2 ^ 32 - 1 →
    (∃ w t, (Asm.keyon cr).assemble = some [w] ∧ w = lineWord 0x8 0 (cr &&& 0xFC : Nat) ∧ exec (decode w) s = .next t ∧
      t.busy = true ∧
      t = { s with stop0 := false, stop1 := false, lei := cr.testBit 2, lpe := cr.testBit 3, ble := cr.testBit 4,
                   irqe := cr.testBit 5, dir := cr.testBit 6, irq := cr.testBit 7, out := ⟨none, false⟩ }) ∧
    ∃ w t, (Asm.keyoff cr).assemble = some [w] ∧ w = lineWord 0x8 0 ((cr &&& 0xFF) ||| 0x02 : Nat) ∧
      exec (decode w) s = .next t ∧ t.busy = false ∧
      t = { s with stop0 := cr.testBit 0, stop1 := true, lei := cr.testBit 2, lpe := cr.testBit 3, ble := cr.testBit 4,
                   irqe := cr.testBit 5, dir := cr.testBit 6, irq := cr.testBit 7, out := ⟨none, false⟩ }) ∧
  ∀ cr : Int, cr < 0 ∨ 2 ^ 32 - 1 < cr → (Asm.keyon cr).assemble = none ∧ (Asm.keyoff cr).assemble = none

/-! ### The machine -/

/-- A step runs the oldest command presented and takes it off the port; in a cycle with none it runs a `NOP` (R59, R70, R180).
The port as a list is the model's (log 3). -/
def Obligations.StepRunsTheCommandPresented : Prop :=
  (∀ (s : State) (w : Word) (rest : List Word), s.port = w :: rest → step s = exec (decode w) { s with port := rest }) ∧
  (∀ s : State, s.port = [] → step s = exec .nop s) ∧
  ∀ (s : State) (w : Nat), step (s.withFetchWord 40 w) = exec (decode (BitVec.ofNat 40 w)) s

/-- No step faults or is refused, in any state, whatever word is presented (R77, R200). -/
def Obligations.EveryStepGoesOn : Prop := ∀ s : State, ∃ t, step s = .next t

/-- Every state reached from a legal state is legal: every register within its configured width, `accum` masked, the fraction
bits of `start` and `end` 0 (R5, R23, R26, R27, R122 (a), R200; D10, D18). That the configuration is a field, and stays as it was, is
the model's choice (log 1). -/
def Obligations.StepKeepsStateLegal : Prop :=
  ∀ s t : State, s.Inv → step s = .next t → t.Inv ∧ t.cfg = s.cfg

/-- The reset state is legal, for every well-formed configuration (R5, R41). The configuration of `State.reset` is the model's
choice (log 2). -/
def Obligations.ResetStateIsLegal : Prop :=
  State.reset.Inv ∧ ∀ c : Config, c.WF → (State.resetWith c).Inv

/-- The answer of the command before is read by no command: it is an output, not state (R11, R43). -/
def Obligations.LastAnswerIsNeverRead : Prop :=
  ∀ (i : Instr) (s : State) (o : Out), exec i { s with out := o } = exec i s

/-! ### STEP -/

/-- `STEP` while a stop bit is set changes no state and reports no crossing (R101; D13). -/
def Obligations.StoppedStepChangesNothing : Prop :=
  ∀ s : State, s.stop0 = true ∨ s.stop1 = true → exec .step s = .next { s with out := ⟨none, false⟩ }

/-- `tick` adds `fc` forward (R102) and subtracts it in reverse (R103), modulo `2^ACC_BITS`, and writes nothing else. -/
def Obligations.TickAddsOrSubtractsStep : Prop :=
  ∀ s : State, s.cfg.WF →
    (s.dir = false → (s.tick.accum.toNat : Int) = ((s.accum.toNat : Int) + s.fc.toNat) % 2 ^ s.cfg.accBits) ∧
    (s.dir = true → (s.tick.accum.toNat : Int) = ((s.accum.toNat : Int) - s.fc.toNat) % 2 ^ s.cfg.accBits) ∧
    s.tick = { s with accum := s.tick.accum }

/-- A running `STEP` reports a crossing exactly when R104 says so: strict unsigned comparisons of the new position, none while
`lei` is set. -/
def Obligations.StepReportsCrossing : Prop :=
  ∀ s : State, s.cfg.WF → Running s →
    ∃ t, exec .step s = .next t ∧ t.out.rdata = none ∧ (t.out.xing = true ↔ Crosses s)

/-- A running `STEP` that does not cross moves `accum` by `tick` and changes nothing else (R116). -/
def Obligations.StepWithoutCrossing : Prop :=
  ∀ s : State, s.cfg.WF → Running s → ¬ Crosses s →
    ∃ t, exec .step s = .next t ∧ (t.accum.toNat : Int) = ticked s ∧
      t = { s with accum := t.accum, out := ⟨none, false⟩ }

/-- A crossing latches `irq` when `irqe` is 1, whatever branch follows; `STEP` never clears `irq`, and without a crossing it does
not touch it (R105). -/
def Obligations.CrossingLatchesIrq : Prop :=
  ∀ s : State, s.cfg.WF → Running s →
    ∃ t, exec .step s = .next t ∧ (Crosses s → t.irq = (s.irq || s.irqe)) ∧ (¬ Crosses s → t.irq = s.irq)

/-- Reverse crossing with `lpe = 1`, `ble = 1`: turn forward, reflected about `start` (R106). -/
def Obligations.ReverseCrossingTurnsForward : Prop :=
  ∀ s : State, s.cfg.WF → Running s → s.dir = true → Crosses s → s.lpe = true → s.ble = true →
    ∃ t, exec .step s = .next t ∧
      (t.accum.toNat : Int) = ((s.start.toNat : Int) + (s.start.toNat - ticked s)) % 2 ^ s.cfg.accBits ∧
      t = { s with accum := t.accum, dir := false, irq := s.irq || s.irqe, out := ⟨none, true⟩ }

/-- Reverse crossing with `lpe = 1`, `ble = 0`: wrap, up by exactly `end - start` (R107). -/
def Obligations.ReverseCrossingWraps : Prop :=
  ∀ s : State, s.cfg.WF → Running s → s.dir = true → Crosses s → s.lpe = true → s.ble = false →
    ∃ t, exec .step s = .next t ∧
      (t.accum.toNat : Int) = ((s.end_.toNat : Int) - (s.start.toNat - ticked s)) % 2 ^ s.cfg.accBits ∧
      (t.accum.toNat : Int) = (ticked s + ((s.end_.toNat : Int) - s.start.toNat)) % 2 ^ s.cfg.accBits ∧
      t = { s with accum := t.accum, irq := s.irq || s.irqe, out := ⟨none, true⟩ }

/-- Reverse crossing with `lpe = 0`, `ble = 1` on a transwave-capable variant: the one-shot conversion, wrapping once, still in
reverse (R108). -/
def Obligations.ReverseCrossingConvertsTranswave : Prop :=
  ∀ s : State, s.cfg.WF → Running s → s.dir = true → Crosses s → s.lpe = false → s.ble = true → s.cfg.transwave = true →
    ∃ t, exec .step s = .next t ∧
      (t.accum.toNat : Int) = ((s.end_.toNat : Int) - (s.start.toNat - ticked s)) % 2 ^ s.cfg.accBits ∧
      t = { s with accum := t.accum, lpe := false, ble := false, lei := true, irq := s.irq || s.irqe, out := ⟨none, true⟩ }

/-- Reverse crossing with no loop policy: `stop0 <- 1`, the position kept below `start`, the block then not busy (R109). -/
def Obligations.ReverseCrossingStops : Prop :=
  ∀ s : State, s.cfg.WF → Running s → s.dir = true → Crosses s → s.lpe = false → (s.ble = false ∨ s.cfg.transwave = false) →
    ∃ t, exec .step s = .next t ∧ (t.accum.toNat : Int) = ticked s ∧ t.accum.toNat < s.start.toNat ∧ t.busy = false ∧
      t = { s with accum := t.accum, stop0 := true, irq := s.irq || s.irqe, out := ⟨none, true⟩ }

/-- Forward crossing with `lpe = 1`, `ble = 1`: turn to reverse, reflected about `end` (R110, derived by the spec from R106). -/
def Obligations.ForwardCrossingTurnsReverse : Prop :=
  ∀ s : State, s.cfg.WF → Running s → s.dir = false → Crosses s → s.lpe = true → s.ble = true →
    ∃ t, exec .step s = .next t ∧
      (t.accum.toNat : Int) = ((s.end_.toNat : Int) + (s.end_.toNat - ticked s)) % 2 ^ s.cfg.accBits ∧
      t = { s with accum := t.accum, dir := true, irq := s.irq || s.irqe, out := ⟨none, true⟩ }

/-- Forward crossing with `lpe = 1`, `ble = 0`: wrap, down by exactly `end - start` (R111, derived by the spec from R107). -/
def Obligations.ForwardCrossingWraps : Prop :=
  ∀ s : State, s.cfg.WF → Running s → s.dir = false → Crosses s → s.lpe = true → s.ble = false →
    ∃ t, exec .step s = .next t ∧
      (t.accum.toNat : Int) = ((s.start.toNat : Int) - (s.end_.toNat - ticked s)) % 2 ^ s.cfg.accBits ∧
      (t.accum.toNat : Int) = (ticked s - ((s.end_.toNat : Int) - s.start.toNat)) % 2 ^ s.cfg.accBits ∧
      t = { s with accum := t.accum, irq := s.irq || s.irqe, out := ⟨none, true⟩ }

/-- Forward crossing with `lpe = 0`, `ble = 1` on a transwave-capable variant: the one-shot conversion, wrapping once, still
forward (R112, derived by the spec from R108). -/
def Obligations.ForwardCrossingConvertsTranswave : Prop :=
  ∀ s : State, s.cfg.WF → Running s → s.dir = false → Crosses s → s.lpe = false → s.ble = true → s.cfg.transwave = true →
    ∃ t, exec .step s = .next t ∧
      (t.accum.toNat : Int) = ((s.start.toNat : Int) - (s.end_.toNat - ticked s)) % 2 ^ s.cfg.accBits ∧
      t = { s with accum := t.accum, lpe := false, ble := false, lei := true, irq := s.irq || s.irqe, out := ⟨none, true⟩ }

/-- Forward crossing with no loop policy: `stop0 <- 1`, the position kept above `end`, the block then not busy (R113, derived by
the spec from R109). -/
def Obligations.ForwardCrossingStops : Prop :=
  ∀ s : State, s.cfg.WF → Running s → s.dir = false → Crosses s → s.lpe = false → (s.ble = false ∨ s.cfg.transwave = false) →
    ∃ t, exec .step s = .next t ∧ (t.accum.toNat : Int) = ticked s ∧ s.end_.toNat < t.accum.toNat ∧ t.busy = false ∧
      t = { s with accum := t.accum, stop0 := true, irq := s.irq || s.irqe, out := ⟨none, true⟩ }

/-- In every state, running or not: `fc`, `start`, `end`, the taps, `irqe` and `stop1` are never written by `STEP` (R116), nor
are the model's own fields for the configuration and the waiting commands (logs 1 and 3). -/
def Obligations.StepNeverWritesHostRegisters : Prop :=
  ∀ s : State, ∃ t, exec .step s = .next t ∧
    t = { s with accum := t.accum, dir := t.dir, lpe := t.lpe, ble := t.ble, lei := t.lei, irq := t.irq, stop0 := t.stop0,
                 out := t.out }

/-- `fc = 0`: within the boundary of its direction the voice holds its position, and beyond it the `STEP` crosses (R117, derived
by the spec). -/
def Obligations.ZeroStepHoldsOrCrosses : Prop :=
  ∀ s : State, s.Inv → Running s → s.fc = 0 →
    ((s.dir = false → s.accum.toNat ≤ s.end_.toNat) → (s.dir = true → s.start.toNat ≤ s.accum.toNat) →
      exec .step s = .next { s with out := ⟨none, false⟩ }) ∧
    (s.lei = false → (s.dir = false ∧ s.end_.toNat < s.accum.toNat ∨ s.dir = true ∧ s.accum.toNat < s.start.toNat) →
      ∃ t, exec .step s = .next t ∧ t.out.xing = true)

/-- A reverse voice with `start = 0` can never cross, a borrow included (R118, derived by the spec). -/
def Obligations.ReverseVoiceFromZeroNeverCrosses : Prop :=
  ∀ s : State, s.dir = true → s.start = 0 →
    ∃ t, exec .step s = .next t ∧ t.out.xing = false ∧ t.dir = true ∧ t.irq = s.irq ∧ t.stop0 = s.stop0

/-- Degenerate forward loops are run as given: with `start > end` a crossing moves the position up by `start - end`, still above
`end`; with `start = end` it leaves the position where `tick` put it (R119, derived by the spec). The last premise keeps the
new position inside the space. -/
def Obligations.DegenerateForwardLoops : Prop :=
  ∀ s : State, s.Inv → Running s → s.dir = false → s.lei = false → s.lpe = true → s.ble = false →
    s.end_.toNat < s.accum.toNat + s.fc.toNat → s.end_.toNat ≤ s.start.toNat →
    s.accum.toNat + s.fc.toNat + (s.start.toNat - s.end_.toNat) < 2 ^ s.cfg.accBits →
    ∃ t, exec .step s = .next t ∧ t.out.xing = true ∧ s.end_.toNat < t.accum.toNat ∧
      t.accum.toNat = s.accum.toNat + s.fc.toNat + (s.start.toNat - s.end_.toNat)

/-- A pure forward loop is periodic: after `n` `STEP`s from a position not above `end`, whatever number of crossings occurred,
the position is congruent to `accum + n * fc` modulo the loop length and not above `end` (R122 (b)).
The premises `fc ≤ end - start` and `end + fc < 2^ACC_BITS` rule out a position left above `end` and a `tick` that wraps. -/
def Obligations.ForwardLoopIsPeriodic : Prop :=
  ∀ (n : Nat) (s : State), s.Inv → Running s → s.dir = false → s.lei = false → s.lpe = true → s.ble = false →
    s.start.toNat < s.end_.toNat → s.accum.toNat ≤ s.end_.toNat → s.fc.toNat ≤ s.end_.toNat - s.start.toNat →
    s.end_.toNat + s.fc.toNat < 2 ^ s.cfg.accBits → s.port = List.replicate n (encode .step) →
    ∃ t, Runs n s t ∧ t.accum.toNat ≤ s.end_.toNat ∧ Running t ∧
      t.accum.toNat ≡ s.accum.toNat + n * s.fc.toNat [MOD s.end_.toNat - s.start.toNat]

/-- Bidirectional symmetry: a forward pass of `n` `STEP`s, of which the last crosses `end` and turns, followed by a reverse pass
brings the position back to within one `fc` of where it started, now in reverse (R122 (c)).
The start position is anywhere from `start` up. The reverse pass is as long as the way back: with `d` the distance by which the last
forward `tick` passes `end`, it is `n - 1` `STEP`s while these end at or above `start` (at the latest when `2 d <= fc`), and `n - 2`
when `fc <= 2 d`; one of the two always applies.
`start + fc <= end` rules out a reflection below `start`, and `accum + n fc < 2^ACC_BITS` a `tick` that wraps. -/
def Obligations.BidirectionalPassReturns : Prop :=
  ∀ (n : Nat) (s : State), s.Inv → Running s → s.dir = false → s.lei = false → s.lpe = true → s.ble = true →
    0 < n → s.accum.toNat + (n - 1) * s.fc.toNat ≤ s.end_.toNat → s.end_.toNat < s.accum.toNat + n * s.fc.toNat →
    s.accum.toNat + n * s.fc.toNat < 2 ^ s.cfg.accBits → s.start.toNat ≤ s.accum.toNat →
    s.start.toNat + s.fc.toNat ≤ s.end_.toNat →
    (s.start.toNat + 2 * (s.accum.toNat + n * s.fc.toNat - s.end_.toNat) ≤ s.accum.toNat + s.fc.toNat →
      s.port = List.replicate (2 * n - 1) (encode .step) →
      ∃ t, Runs (2 * n - 1) s t ∧ t.dir = true ∧
        s.accum.toNat ≤ t.accum.toNat + s.fc.toNat ∧ t.accum.toNat ≤ s.accum.toNat + s.fc.toNat) ∧
    (2 ≤ n → s.fc.toNat ≤ 2 * (s.accum.toNat + n * s.fc.toNat - s.end_.toNat) →
      s.port = List.replicate (2 * n - 2) (encode .step) →
      ∃ t, Runs (2 * n - 2) s t ∧ t.dir = true ∧
        s.accum.toNat ≤ t.accum.toNat + s.fc.toNat ∧ t.accum.toNat ≤ s.accum.toNat + s.fc.toNat)

/-- `lei` is sticky: along any run whose commands hold no `WRCR` and no `RESET`, it stays set and no crossing is reported
(R37, R226; D17). -/
def Obligations.LoopEndIgnoreIsSticky : Prop :=
  ∀ (n : Nat) (s t : State), s.lei = true → (∀ w ∈ s.port, ¬ IsWrcr (decode w) ∧ decode w ≠ .reset) → 0 < n → Runs n s t →
    t.lei = true ∧ t.out.xing = false

/-! ### Sample path -/

/-- `LDSMP` stores the value it is given in the tap it names and changes nothing else, busy or not (R64, R135; D7). -/
def Obligations.LdsmpStoresTheTap : Prop :=
  ∀ (v : Sample) (s : State),
    exec (.ldsmp .tap0 v) s = .next { s with sample0 := v, out := ⟨none, false⟩ } ∧
    exec (.ldsmp .tap1 v) s = .next { s with sample1 := v, out := ⟨none, false⟩ }

/-- `RDSMP` answers the tap's 16-bit pattern with `rdata[31:16] = 0` and changes no state (R136; D21). -/
def Obligations.RdsmpAnswersThePattern : Prop :=
  ∀ (tap : Tap) (s : State), ∃ d, exec (.rdsmp tap) s = .next { s with out := ⟨some d, false⟩ } ∧
    d.toNat = (match tap with | .tap0 => s.sample0.toNat | .tap1 => s.sample1.toNat)

/-- `get_accum_integer()`: `acc_int` is the integer part of `accum`, an `INT_BITS`-bit value (R130). -/
def Obligations.AccIntIsTheIntegerPart : Prop :=
  ∀ s : State, s.Inv →
    s.accInt = s.accum.toNat / 2 ^ s.cfg.fracBits ∧ s.accInt < 2 ^ s.cfg.intBits ∧ s.outputs.accInt = s.accInt

/-- Fetch addresses: `addr0 = acc_int`, and `addr1` is one ahead, wrapping to 0 at the top of the sample space (R134; D12). -/
def Obligations.FetchAddressesAreConsecutive : Prop :=
  ∀ s : State, s.Inv → s.outputs.addr0 = s.accInt ∧
    (s.accInt + 1 < 2 ^ s.cfg.intBits → s.outputs.addr1 = s.accInt + 1) ∧
    (s.accInt + 1 = 2 ^ s.cfg.intBits → s.outputs.addr1 = 0)

/-- `interpolation()`: the exact product of the top 9 fraction bits and the difference of the taps, floored by 512, added to
`sample[0]`; it never overflows 16 bits (R131, R133; D8, D9). -/
def Obligations.InterpolationIsExact : Prop :=
  ∀ s : State, s.outputs.interp.toInt =
    s.sample0.toInt +
      ((s.accum.toNat / 2 ^ (s.cfg.fracBits - 9) % 512 : Nat) * (s.sample1.toInt - s.sample0.toInt)) / 512

/-- `interp` lies between the taps; weight 0 gives `sample[0]`, and no weight gives `sample[1]` when that is the greater (R132,
derived by the spec). -/
def Obligations.InterpolationLiesBetweenTaps : Prop :=
  ∀ s : State,
    min s.sample0.toInt s.sample1.toInt ≤ s.interp.toInt ∧ s.interp.toInt ≤ max s.sample0.toInt s.sample1.toInt ∧
    (s.weight = 0 → s.interp = s.sample0) ∧ (s.sample0.toInt < s.sample1.toInt → s.interp.toInt < s.sample1.toInt)

/-- The flag outputs: `busy` is true iff both stop bits are clear (R38), and `irq_out` is `irq`, not gated by `irqe`
(R40, R205; D16). -/
def Obligations.FlagOutputs : Prop :=
  ∀ s : State, (s.outputs.busy = true ↔ s.stop0 = false ∧ s.stop1 = false) ∧ s.outputs.irqOut = s.irq

/-! ### Register access -/

/-- `WRFC`: `fc <- data[FC_BITS-1:0]`, and nothing else changes (R151; D11). -/
def Obligations.WrfcKeepsLowBits : Prop :=
  ∀ (d : Data) (s : State), ∃ t, exec (.wrfc d) s = .next t ∧ t.fc.toNat = d.toNat % 2 ^ s.cfg.fcBits ∧
    t = { s with fc := t.fc, out := ⟨none, false⟩ }

/-- `WRSTART` and `WREND`: `mask_ACC_BITS(data) - data mod 2^FRAC_BITS`, whatever the other boundary is, and nothing else
changes (R152, R153; D18). -/
def Obligations.BoundaryWritesClearFraction : Prop :=
  ∀ (d : Data) (s : State),
    (∃ t, exec (.wrstart d) s = .next t ∧
      t.start.toNat = d.toNat % 2 ^ s.cfg.accBits - d.toNat % 2 ^ s.cfg.fracBits ∧
      t = { s with start := t.start, out := ⟨none, false⟩ }) ∧
    ∃ t, exec (.wrend d) s = .next t ∧
      t.end_.toNat = d.toNat % 2 ^ s.cfg.accBits - d.toNat % 2 ^ s.cfg.fracBits ∧
      t = { s with end_ := t.end_, out := ⟨none, false⟩ }

/-- `WRACC`: `accum <- mask_ACC_BITS(data)`, fraction bits kept, no crossing check, and nothing else changes (R154; D14). -/
def Obligations.WraccMasksPosition : Prop :=
  ∀ (d : Data) (s : State), ∃ t, exec (.wracc d) s = .next t ∧ t.accum.toNat = d.toNat % 2 ^ s.cfg.accBits ∧
    t = { s with accum := t.accum, out := ⟨none, false⟩ }

/-- `WRCR` loads all eight control bits, `irq`, `stop0` and `lei` included, and nothing else changes (R155, R156, R157; D5, D15,
D17). -/
def Obligations.WrcrLoadsAllControlBits : Prop :=
  ∀ (cr : BitVec 8) (s : State), exec (.wrcr cr) s = .next
    { s with stop0 := cr[0], stop1 := cr[1], lei := cr[2], lpe := cr[3], ble := cr[4], irqe := cr[5], dir := cr[6], irq := cr[7],
             out := ⟨none, false⟩ }

/-- `RDFC`, `RDSTART`, `RDEND`, `RDACC` answer their register, zero-extended, and change no state (R56, R158 to R161; D21). -/
def Obligations.RegisterReadsAnswerTheRegister : Prop :=
  ∀ s : State, exec .rdfc s = .next { s with out := ⟨some s.fc, false⟩ } ∧
    exec .rdstart s = .next { s with out := ⟨some s.start, false⟩ } ∧
    exec .rdend s = .next { s with out := ⟨some s.end_, false⟩ } ∧
    exec .rdacc s = .next { s with out := ⟨some s.accum, false⟩ }

/-- `RDCR` answers the control word of R39, bits 31:8 zero, and changes no state: it does not clear `irq` (R39, R162; D5, D21). -/
def Obligations.RdcrAnswersTheControlWord : Prop :=
  ∀ s : State, ∃ d, exec .rdcr s = .next { s with out := ⟨some d, false⟩ } ∧
    d.toNat = s.stop0.toNat + 2 * s.stop1.toNat + 4 * s.lei.toNat + 8 * s.lpe.toNat + 16 * s.ble.toNat + 32 * s.irqe.toNat +
      64 * s.dir.toNat + 128 * s.irq.toNat

/-- What the reads return, written back in any state of the same configuration, restores every element of a legal state (R44,
derived by the spec). -/
def Obligations.SnapshotRestoresState : Prop :=
  ∀ s u : State, s.Inv → u.cfg = s.cfg →
    ∃ a f b e c x y t v, runCollect snapshotReads s = .next ([some a, some f, some b, some e, some c, some x, some y], t) ∧
      t = { s with out := t.out } ∧
      runCollect (restoreWrites a f b e c x y) u = .next ([none, none, none, none, none, none, none], v) ∧
      v = { s with port := u.port, out := ⟨none, false⟩ }

/-! ### Control -/

/-- `NOP` changes no state (R180; D1). -/
def Obligations.NopChangesNothing : Prop :=
  ∀ s : State, exec .nop s = .next { s with out := ⟨none, false⟩ }

/-- `IRQCLR` clears `irq` and changes nothing else, `irqe` included (R181; D15). -/
def Obligations.IrqclrClearsOnlyIrq : Prop :=
  ∀ s : State, exec .irqclr s = .next { s with irq := false, out := ⟨none, false⟩ }

/-- `RESET`: every element to 0, in any state (R41, R182). The model's own fields are its choice, not the rule's: the configuration
(log 1) and the waiting commands (log 3) stay, and the answer is empty (log 5). -/
def Obligations.ResetClearsEveryElement : Prop :=
  ∀ s : State, ∃ t, exec .reset s = .next t ∧ t.accum = 0 ∧ t.fc = 0 ∧ t.start = 0 ∧ t.end_ = 0 ∧ t.sample0 = 0 ∧ t.sample1 = 0 ∧
    t.stop0 = false ∧ t.stop1 = false ∧ t.lpe = false ∧ t.ble = false ∧ t.irqe = false ∧ t.dir = false ∧ t.irq = false ∧
    t.lei = false ∧ t.crView = 0 ∧ t.out = ⟨none, false⟩ ∧ t.cfg = s.cfg ∧ t.port = s.port

/-- The state after reset holds the reset values, for every configuration (R41, R220). -/
def Obligations.ResetValues : Prop :=
  State.reset = State.resetWith State.reset.cfg ∧
  ∀ c : Config, ∃ t, t = State.resetWith c ∧ t.accum = 0 ∧ t.fc = 0 ∧ t.start = 0 ∧ t.end_ = 0 ∧ t.sample0 = 0 ∧ t.sample1 = 0 ∧
    t.stop0 = false ∧ t.stop1 = false ∧ t.lpe = false ∧ t.ble = false ∧ t.irqe = false ∧ t.dir = false ∧ t.irq = false ∧
    t.lei = false ∧ t.crView = 0

/-- Right after reset the block is busy, `interp` is 0, and a `STEP` leaves it there with no crossing (R221, derived by the
spec). -/
def Obligations.ResetVoiceIsBusyAndStill : Prop :=
  ∀ c : Config, (State.resetWith c).busy = true ∧ (State.resetWith c).interp = 0 ∧
    exec .step (State.resetWith c) = .next (State.resetWith c)

/-! ### Whole-machine rules -/

/-- `stop1`: only `WRCR` and `RESET` write it, and `STEP` reads it only through `busy` (R31). -/
def Obligations.Stop1WrittenOnlyByWrcrAndReset : Prop :=
  (∀ (i : Instr) (s t : State), exec i s = .next t → ¬ IsWrcr i → i ≠ .reset → t.stop1 = s.stop1) ∧
  ∀ (s t : State) (b : Bool), ({ s with stop1 := b } : State).busy = s.busy → exec .step s = .next t →
    exec .step { s with stop1 := b } = .next { t with stop1 := b }

/-- `irqe`: only `WRCR` and `RESET` write it, and when it is 1 every crossing latches `irq` (R34). -/
def Obligations.IrqeWrittenOnlyByWrcrAndReset : Prop :=
  (∀ (i : Instr) (s t : State), exec i s = .next t → ¬ IsWrcr i → i ≠ .reset → t.irqe = s.irqe) ∧
  ∀ s t : State, exec .step s = .next t → t.out.xing = true → s.irqe = true → t.irq = true

/-- `lei` goes from 1 to 0 by `WRCR` and `RESET` alone (R37, R157; D17), and from 0 to 1 only by a `WRCR` or by the transwave
conversion of a crossing `STEP` (R37). -/
def Obligations.LeiChangesOnlyAsStated : Prop :=
  ∀ (i : Instr) (s t : State), exec i s = .next t → t.lei ≠ s.lei →
    IsWrcr i ∨ (i = .reset ∧ s.lei = true) ∨
      (i = .step ∧ s.lei = false ∧ t.out.xing = true ∧ s.cfg.transwave = true ∧ s.ble = true ∧ s.lpe = false)

/-- `irq` is set only by a crossing with `irqe = 1` or by `WRCR` with bit 7 = 1, and cleared only by `IRQCLR`, `RESET` or `WRCR`
with bit 7 = 0; nothing else changes it (R204, derived by the spec). -/
def Obligations.IrqChangesOnlyAsStated : Prop :=
  ∀ (i : Instr) (s t : State), exec i s = .next t →
    (s.irq = false → t.irq = true →
      (i = .step ∧ t.out.xing = true ∧ s.irqe = true) ∨ ∃ cr : BitVec 8, i = .wrcr cr ∧ cr[7] = true) ∧
    (s.irq = true → t.irq = false → i = .irqclr ∨ i = .reset ∨ ∃ cr : BitVec 8, i = .wrcr cr ∧ cr[7] = false)

/-- `start` and `end`: `ACC_BITS` wide with fraction bits always 0, and changed only by `WRSTART`, `WREND` and `RESET`
respectively (R26, R27). -/
def Obligations.BoundariesChangedOnlyByTheirWrites : Prop :=
  ∀ (i : Instr) (s t : State), exec i s = .next t →
    (t.start ≠ s.start → i = .reset ∨ ∃ d, i = .wrstart d) ∧ (t.end_ ≠ s.end_ → i = .reset ∨ ∃ d, i = .wrend d) ∧
    (s.Inv → t.start.toNat < 2 ^ t.cfg.accBits ∧ t.start.toNat % 2 ^ t.cfg.fracBits = 0 ∧
      t.end_.toNat < 2 ^ t.cfg.accBits ∧ t.end_.toNat % 2 ^ t.cfg.fracBits = 0)

/-- The access table of R42: which commands can change each remaining element (R20, R42; D14, D15, D17). That no command changes the
configuration (log 1) or the waiting commands, not even `RESET` (log 3), is the model's choice. -/
def Obligations.AccessTable : Prop :=
  ∀ (i : Instr) (s t : State), exec i s = .next t →
    (t.accum ≠ s.accum → i = .step ∨ i = .reset ∨ ∃ d, i = .wracc d) ∧
    (t.fc ≠ s.fc → i = .reset ∨ ∃ d, i = .wrfc d) ∧
    (t.sample0 ≠ s.sample0 → i = .reset ∨ ∃ v, i = .ldsmp .tap0 v) ∧
    (t.sample1 ≠ s.sample1 → i = .reset ∨ ∃ v, i = .ldsmp .tap1 v) ∧
    (t.stop0 ≠ s.stop0 ∨ t.lpe ≠ s.lpe ∨ t.ble ≠ s.ble ∨ t.dir ≠ s.dir → i = .step ∨ i = .reset ∨ IsWrcr i) ∧
    t.cfg = s.cfg ∧ t.port = s.port

/-! ### The enclosing blocks -/

/-- A chip reset puts every instance in the reset state of its configuration in one cycle (R183; D30). The row of instances is the
model's (log 10), and so is that each keeps its configuration (log 1) and its waiting commands (log 3), with an empty answer (log 5). -/
def Obligations.ChipResetResetsEveryInstance : Prop :=
  ∀ c : List State, Chip.chipReset c = .next (c.map fun s => { State.resetWith s.cfg with port := s.port })

/-- Instances share no state: a command to one instance leaves every element of the others as it was (R59, R210; D24). The row of
instances is the model's (log 10), and the others' answer is that of the `NOP` they get (logs 5 and 9). -/
def Obligations.InstancesAreIndependent : Prop :=
  ∀ (c : List State) (k : Nat) (w : Word), k < c.length →
    ∃ c', Chip.cycle c (Chip.toVoice k w c.length) = .next c' ∧ c'.length = c.length ∧
      (∀ j s, j ≠ k → getElem? c j = some s → getElem? c' j = some { s with out := ⟨none, false⟩ }) ∧
      ∀ s t, getElem? c k = some s → exec (decode w) s = .next t → getElem? c' k = some t

/-- The slot of a busy voice delivers the samples at `addr0` and `addr1` before the filter takes `interp`, then advances; a
stopped voice's slot fetches nothing and changes nothing (R137, R224, R230). The commands wait in the model's own port (log 3). -/
def Obligations.SlotDeliversFetchedSamples : Prop :=
  ∀ (callback : Nat → Sample) (s : State), s.port = [] →
    (s.busy = true → ∃ t u, Runs 2 (s.presentAll (slotCommands callback s)) t ∧ Runs 3 (s.presentAll (slotCommands callback s)) u ∧
      t.sample0 = callback t.addr0 ∧ t.sample1 = callback t.addr1 ∧
      t = { s with sample0 := t.sample0, sample1 := t.sample1, port := [encode .step], out := ⟨none, false⟩ } ∧
      exec .step { t with port := [] } = .next u) ∧
    (s.busy = false → Runs 1 (s.presentAll (slotCommands callback s)) { s with out := ⟨none, false⟩ })

/-- The boot and key-on order, from any state: the voice then runs with the step, boundaries, position and control bits written,
`lei` clear and both taps 0 (R222; D31). That the commands wait in a port which the leading `RESET` leaves alone is the model's
choice (log 3), and so is that the configuration is a field (log 1). -/
def Obligations.BootSequenceStartsTheVoice : Prop :=
  ∀ (s : State) (fc start end_ accum : Data) (cr : BitVec 8), s.cfg.WF → s.port = [] →
    ∃ t, Runs 7 (s.presentAll (bootCommands fc start end_ accum cr)) t ∧ t.cfg = s.cfg ∧ t.Inv ∧ t.busy = true ∧ t.lei = false ∧
      t.fc.toNat = fc.toNat % 2 ^ s.cfg.fcBits ∧ t.accum.toNat = accum.toNat % 2 ^ s.cfg.accBits ∧
      t.start.toNat = start.toNat % 2 ^ s.cfg.accBits - start.toNat % 2 ^ s.cfg.fracBits ∧
      t.end_.toNat = end_.toNat % 2 ^ s.cfg.accBits - end_.toNat % 2 ^ s.cfg.fracBits ∧
      t.sample0 = 0 ∧ t.sample1 = 0 ∧ t.lpe = cr[3] ∧ t.ble = cr[4] ∧ t.irqe = cr[5] ∧ t.dir = cr[6] ∧ t.irq = cr[7] ∧ t.port = []
end

