-- ==== Sys2Proof/Laws/Decode.lean ====
section
/-! SUPPORT. The fields of a packed word, and decoding by `op`. -/

namespace Sys2Proof

variable (op : BitVec 4) (rsv : BitVec 3) (tap : BitVec 1) (data : Data)

theorem opOf_packWord : opOf (packWord op rsv tap data) = op := by
  apply BitVec.eq_of_getLsbD_eq
  intro i hi
  simp only [opOf, packWord, BitVec.getLsbD_extractLsb', BitVec.getLsbD_append]
  have : i < 4 := hi
  interval_cases i <;> simp

theorem dataOf_packWord : dataOf (packWord op rsv tap data) = data := by
  apply BitVec.eq_of_getLsbD_eq
  intro i hi
  simp only [dataOf, packWord, BitVec.getLsbD_extractLsb', BitVec.getLsbD_append]
  simp [hi]

theorem getLsbD_32_packWord : (packWord op rsv tap data).getLsbD 32 = tap.getLsbD 0 := by
  simp only [packWord, BitVec.getLsbD_append]
  simp only [show ¬(32 < 32) by decide, show (32 - 32 : Nat) = 0 by decide, if_false, show (0 < 1) by decide, if_true]

theorem tapOf_packWord (t : Tap) : tapOf (packWord op rsv t.toBit data) = t := by
  rw [tapOf, getLsbD_32_packWord]
  cases t <;> rfl

/-- `decode` reads `op` bit by bit. -/
theorem getLsbD_opOf (w : Word) (k : Nat) (hk : k < 4) : w.getLsbD (36 + k) = (opOf w).getLsbD k := by
  simp [opOf, hk]

end Sys2Proof
end

