-- ==== Sys2Proof/Laws/State.lean ====
section
/-! SUPPORT. One lemma per field per state update, true by unfolding, so that no later proof unfolds a record update. -/

namespace Sys2Proof.Machine.State

variable (s : State)

/-! ### `setAccum` -/

@[simp] theorem setAccum_cfg (v : Int) : (s.setAccum v).cfg = s.cfg := rfl
@[simp] theorem setAccum_accum (v : Int) : (s.setAccum v).accum = BitVec.ofNat 32 (maskN s.cfg.accBits v) := rfl
@[simp] theorem setAccum_fc (v : Int) : (s.setAccum v).fc = s.fc := rfl
@[simp] theorem setAccum_start (v : Int) : (s.setAccum v).start = s.start := rfl
@[simp] theorem setAccum_end_ (v : Int) : (s.setAccum v).end_ = s.end_ := rfl
@[simp] theorem setAccum_sample0 (v : Int) : (s.setAccum v).sample0 = s.sample0 := rfl
@[simp] theorem setAccum_sample1 (v : Int) : (s.setAccum v).sample1 = s.sample1 := rfl
@[simp] theorem setAccum_stop0 (v : Int) : (s.setAccum v).stop0 = s.stop0 := rfl
@[simp] theorem setAccum_stop1 (v : Int) : (s.setAccum v).stop1 = s.stop1 := rfl
@[simp] theorem setAccum_lei (v : Int) : (s.setAccum v).lei = s.lei := rfl
@[simp] theorem setAccum_lpe (v : Int) : (s.setAccum v).lpe = s.lpe := rfl
@[simp] theorem setAccum_ble (v : Int) : (s.setAccum v).ble = s.ble := rfl
@[simp] theorem setAccum_irqe (v : Int) : (s.setAccum v).irqe = s.irqe := rfl
@[simp] theorem setAccum_dir (v : Int) : (s.setAccum v).dir = s.dir := rfl
@[simp] theorem setAccum_irq (v : Int) : (s.setAccum v).irq = s.irq := rfl
@[simp] theorem setAccum_port (v : Int) : (s.setAccum v).port = s.port := rfl
@[simp] theorem setAccum_out (v : Int) : (s.setAccum v).out = s.out := rfl

/-! ### `setFc` -/

@[simp] theorem setFc_cfg (v : Data) : (s.setFc v).cfg = s.cfg := rfl
@[simp] theorem setFc_accum (v : Data) : (s.setFc v).accum = s.accum := rfl
@[simp] theorem setFc_fc (v : Data) : (s.setFc v).fc = v := rfl
@[simp] theorem setFc_start (v : Data) : (s.setFc v).start = s.start := rfl
@[simp] theorem setFc_end_ (v : Data) : (s.setFc v).end_ = s.end_ := rfl
@[simp] theorem setFc_sample0 (v : Data) : (s.setFc v).sample0 = s.sample0 := rfl
@[simp] theorem setFc_sample1 (v : Data) : (s.setFc v).sample1 = s.sample1 := rfl
@[simp] theorem setFc_stop0 (v : Data) : (s.setFc v).stop0 = s.stop0 := rfl
@[simp] theorem setFc_stop1 (v : Data) : (s.setFc v).stop1 = s.stop1 := rfl
@[simp] theorem setFc_lei (v : Data) : (s.setFc v).lei = s.lei := rfl
@[simp] theorem setFc_lpe (v : Data) : (s.setFc v).lpe = s.lpe := rfl
@[simp] theorem setFc_ble (v : Data) : (s.setFc v).ble = s.ble := rfl
@[simp] theorem setFc_irqe (v : Data) : (s.setFc v).irqe = s.irqe := rfl
@[simp] theorem setFc_dir (v : Data) : (s.setFc v).dir = s.dir := rfl
@[simp] theorem setFc_irq (v : Data) : (s.setFc v).irq = s.irq := rfl
@[simp] theorem setFc_port (v : Data) : (s.setFc v).port = s.port := rfl
@[simp] theorem setFc_out (v : Data) : (s.setFc v).out = s.out := rfl

/-! ### `setStart` -/

@[simp] theorem setStart_cfg (v : Data) : (s.setStart v).cfg = s.cfg := rfl
@[simp] theorem setStart_accum (v : Data) : (s.setStart v).accum = s.accum := rfl
@[simp] theorem setStart_fc (v : Data) : (s.setStart v).fc = s.fc := rfl
@[simp] theorem setStart_start (v : Data) : (s.setStart v).start = v := rfl
@[simp] theorem setStart_end_ (v : Data) : (s.setStart v).end_ = s.end_ := rfl
@[simp] theorem setStart_sample0 (v : Data) : (s.setStart v).sample0 = s.sample0 := rfl
@[simp] theorem setStart_sample1 (v : Data) : (s.setStart v).sample1 = s.sample1 := rfl
@[simp] theorem setStart_stop0 (v : Data) : (s.setStart v).stop0 = s.stop0 := rfl
@[simp] theorem setStart_stop1 (v : Data) : (s.setStart v).stop1 = s.stop1 := rfl
@[simp] theorem setStart_lei (v : Data) : (s.setStart v).lei = s.lei := rfl
@[simp] theorem setStart_lpe (v : Data) : (s.setStart v).lpe = s.lpe := rfl
@[simp] theorem setStart_ble (v : Data) : (s.setStart v).ble = s.ble := rfl
@[simp] theorem setStart_irqe (v : Data) : (s.setStart v).irqe = s.irqe := rfl
@[simp] theorem setStart_dir (v : Data) : (s.setStart v).dir = s.dir := rfl
@[simp] theorem setStart_irq (v : Data) : (s.setStart v).irq = s.irq := rfl
@[simp] theorem setStart_port (v : Data) : (s.setStart v).port = s.port := rfl
@[simp] theorem setStart_out (v : Data) : (s.setStart v).out = s.out := rfl

/-! ### `setEnd` -/

@[simp] theorem setEnd_cfg (v : Data) : (s.setEnd v).cfg = s.cfg := rfl
@[simp] theorem setEnd_accum (v : Data) : (s.setEnd v).accum = s.accum := rfl
@[simp] theorem setEnd_fc (v : Data) : (s.setEnd v).fc = s.fc := rfl
@[simp] theorem setEnd_start (v : Data) : (s.setEnd v).start = s.start := rfl
@[simp] theorem setEnd_end_ (v : Data) : (s.setEnd v).end_ = v := rfl
@[simp] theorem setEnd_sample0 (v : Data) : (s.setEnd v).sample0 = s.sample0 := rfl
@[simp] theorem setEnd_sample1 (v : Data) : (s.setEnd v).sample1 = s.sample1 := rfl
@[simp] theorem setEnd_stop0 (v : Data) : (s.setEnd v).stop0 = s.stop0 := rfl
@[simp] theorem setEnd_stop1 (v : Data) : (s.setEnd v).stop1 = s.stop1 := rfl
@[simp] theorem setEnd_lei (v : Data) : (s.setEnd v).lei = s.lei := rfl
@[simp] theorem setEnd_lpe (v : Data) : (s.setEnd v).lpe = s.lpe := rfl
@[simp] theorem setEnd_ble (v : Data) : (s.setEnd v).ble = s.ble := rfl
@[simp] theorem setEnd_irqe (v : Data) : (s.setEnd v).irqe = s.irqe := rfl
@[simp] theorem setEnd_dir (v : Data) : (s.setEnd v).dir = s.dir := rfl
@[simp] theorem setEnd_irq (v : Data) : (s.setEnd v).irq = s.irq := rfl
@[simp] theorem setEnd_port (v : Data) : (s.setEnd v).port = s.port := rfl
@[simp] theorem setEnd_out (v : Data) : (s.setEnd v).out = s.out := rfl

/-! ### `answer` -/

@[simp] theorem answer_cfg (o : Out) : (s.answer o).cfg = s.cfg := rfl
@[simp] theorem answer_accum (o : Out) : (s.answer o).accum = s.accum := rfl
@[simp] theorem answer_fc (o : Out) : (s.answer o).fc = s.fc := rfl
@[simp] theorem answer_start (o : Out) : (s.answer o).start = s.start := rfl
@[simp] theorem answer_end_ (o : Out) : (s.answer o).end_ = s.end_ := rfl
@[simp] theorem answer_sample0 (o : Out) : (s.answer o).sample0 = s.sample0 := rfl
@[simp] theorem answer_sample1 (o : Out) : (s.answer o).sample1 = s.sample1 := rfl
@[simp] theorem answer_stop0 (o : Out) : (s.answer o).stop0 = s.stop0 := rfl
@[simp] theorem answer_stop1 (o : Out) : (s.answer o).stop1 = s.stop1 := rfl
@[simp] theorem answer_lei (o : Out) : (s.answer o).lei = s.lei := rfl
@[simp] theorem answer_lpe (o : Out) : (s.answer o).lpe = s.lpe := rfl
@[simp] theorem answer_ble (o : Out) : (s.answer o).ble = s.ble := rfl
@[simp] theorem answer_irqe (o : Out) : (s.answer o).irqe = s.irqe := rfl
@[simp] theorem answer_dir (o : Out) : (s.answer o).dir = s.dir := rfl
@[simp] theorem answer_irq (o : Out) : (s.answer o).irq = s.irq := rfl
@[simp] theorem answer_port (o : Out) : (s.answer o).port = s.port := rfl
@[simp] theorem answer_out (o : Out) : (s.answer o).out = o := rfl

/-! ### `convert` -/

@[simp] theorem convert_cfg : (s.convert).cfg = s.cfg := rfl
@[simp] theorem convert_accum : (s.convert).accum = s.accum := rfl
@[simp] theorem convert_fc : (s.convert).fc = s.fc := rfl
@[simp] theorem convert_start : (s.convert).start = s.start := rfl
@[simp] theorem convert_end_ : (s.convert).end_ = s.end_ := rfl
@[simp] theorem convert_sample0 : (s.convert).sample0 = s.sample0 := rfl
@[simp] theorem convert_sample1 : (s.convert).sample1 = s.sample1 := rfl
@[simp] theorem convert_stop0 : (s.convert).stop0 = s.stop0 := rfl
@[simp] theorem convert_stop1 : (s.convert).stop1 = s.stop1 := rfl
@[simp] theorem convert_lei : (s.convert).lei = true := rfl
@[simp] theorem convert_lpe : (s.convert).lpe = false := rfl
@[simp] theorem convert_ble : (s.convert).ble = false := rfl
@[simp] theorem convert_irqe : (s.convert).irqe = s.irqe := rfl
@[simp] theorem convert_dir : (s.convert).dir = s.dir := rfl
@[simp] theorem convert_irq : (s.convert).irq = s.irq := rfl
@[simp] theorem convert_port : (s.convert).port = s.port := rfl
@[simp] theorem convert_out : (s.convert).out = s.out := rfl

/-! ### `loadCr` -/

@[simp] theorem loadCr_cfg (cr : BitVec 8) : (s.loadCr cr).cfg = s.cfg := rfl
@[simp] theorem loadCr_accum (cr : BitVec 8) : (s.loadCr cr).accum = s.accum := rfl
@[simp] theorem loadCr_fc (cr : BitVec 8) : (s.loadCr cr).fc = s.fc := rfl
@[simp] theorem loadCr_start (cr : BitVec 8) : (s.loadCr cr).start = s.start := rfl
@[simp] theorem loadCr_end_ (cr : BitVec 8) : (s.loadCr cr).end_ = s.end_ := rfl
@[simp] theorem loadCr_sample0 (cr : BitVec 8) : (s.loadCr cr).sample0 = s.sample0 := rfl
@[simp] theorem loadCr_sample1 (cr : BitVec 8) : (s.loadCr cr).sample1 = s.sample1 := rfl
@[simp] theorem loadCr_stop0 (cr : BitVec 8) : (s.loadCr cr).stop0 = cr.getLsbD 0 := rfl
@[simp] theorem loadCr_stop1 (cr : BitVec 8) : (s.loadCr cr).stop1 = cr.getLsbD 1 := rfl
@[simp] theorem loadCr_lei (cr : BitVec 8) : (s.loadCr cr).lei = cr.getLsbD 2 := rfl
@[simp] theorem loadCr_lpe (cr : BitVec 8) : (s.loadCr cr).lpe = cr.getLsbD 3 := rfl
@[simp] theorem loadCr_ble (cr : BitVec 8) : (s.loadCr cr).ble = cr.getLsbD 4 := rfl
@[simp] theorem loadCr_irqe (cr : BitVec 8) : (s.loadCr cr).irqe = cr.getLsbD 5 := rfl
@[simp] theorem loadCr_dir (cr : BitVec 8) : (s.loadCr cr).dir = cr.getLsbD 6 := rfl
@[simp] theorem loadCr_irq (cr : BitVec 8) : (s.loadCr cr).irq = cr.getLsbD 7 := rfl
@[simp] theorem loadCr_port (cr : BitVec 8) : (s.loadCr cr).port = s.port := rfl
@[simp] theorem loadCr_out (cr : BitVec 8) : (s.loadCr cr).out = s.out := rfl

/-! ### `reflect` -/

@[simp] theorem reflect_cfg (b : Data) : (s.reflect b).cfg = s.cfg := rfl
@[simp] theorem reflect_fc (b : Data) : (s.reflect b).fc = s.fc := rfl
@[simp] theorem reflect_start (b : Data) : (s.reflect b).start = s.start := rfl
@[simp] theorem reflect_end_ (b : Data) : (s.reflect b).end_ = s.end_ := rfl
@[simp] theorem reflect_sample0 (b : Data) : (s.reflect b).sample0 = s.sample0 := rfl
@[simp] theorem reflect_sample1 (b : Data) : (s.reflect b).sample1 = s.sample1 := rfl
@[simp] theorem reflect_stop0 (b : Data) : (s.reflect b).stop0 = s.stop0 := rfl
@[simp] theorem reflect_stop1 (b : Data) : (s.reflect b).stop1 = s.stop1 := rfl
@[simp] theorem reflect_lei (b : Data) : (s.reflect b).lei = s.lei := rfl
@[simp] theorem reflect_lpe (b : Data) : (s.reflect b).lpe = s.lpe := rfl
@[simp] theorem reflect_ble (b : Data) : (s.reflect b).ble = s.ble := rfl
@[simp] theorem reflect_irqe (b : Data) : (s.reflect b).irqe = s.irqe := rfl
@[simp] theorem reflect_dir (b : Data) : (s.reflect b).dir = s.dir := rfl
@[simp] theorem reflect_irq (b : Data) : (s.reflect b).irq = s.irq := rfl
@[simp] theorem reflect_port (b : Data) : (s.reflect b).port = s.port := rfl
@[simp] theorem reflect_out (b : Data) : (s.reflect b).out = s.out := rfl

/-! ### `wrap` -/

@[simp] theorem wrap_cfg (b c : Data) : (s.wrap b c).cfg = s.cfg := rfl
@[simp] theorem wrap_fc (b c : Data) : (s.wrap b c).fc = s.fc := rfl
@[simp] theorem wrap_start (b c : Data) : (s.wrap b c).start = s.start := rfl
@[simp] theorem wrap_end_ (b c : Data) : (s.wrap b c).end_ = s.end_ := rfl
@[simp] theorem wrap_sample0 (b c : Data) : (s.wrap b c).sample0 = s.sample0 := rfl
@[simp] theorem wrap_sample1 (b c : Data) : (s.wrap b c).sample1 = s.sample1 := rfl
@[simp] theorem wrap_stop0 (b c : Data) : (s.wrap b c).stop0 = s.stop0 := rfl
@[simp] theorem wrap_stop1 (b c : Data) : (s.wrap b c).stop1 = s.stop1 := rfl
@[simp] theorem wrap_lei (b c : Data) : (s.wrap b c).lei = s.lei := rfl
@[simp] theorem wrap_lpe (b c : Data) : (s.wrap b c).lpe = s.lpe := rfl
@[simp] theorem wrap_ble (b c : Data) : (s.wrap b c).ble = s.ble := rfl
@[simp] theorem wrap_irqe (b c : Data) : (s.wrap b c).irqe = s.irqe := rfl
@[simp] theorem wrap_dir (b c : Data) : (s.wrap b c).dir = s.dir := rfl
@[simp] theorem wrap_irq (b c : Data) : (s.wrap b c).irq = s.irq := rfl
@[simp] theorem wrap_port (b c : Data) : (s.wrap b c).port = s.port := rfl
@[simp] theorem wrap_out (b c : Data) : (s.wrap b c).out = s.out := rfl

/-! ### `setTap` -/

@[simp] theorem setTap_cfg (t : Tap) (v : Sample) : (s.setTap t v).cfg = s.cfg := by cases t <;> rfl
@[simp] theorem setTap_accum (t : Tap) (v : Sample) : (s.setTap t v).accum = s.accum := by cases t <;> rfl
@[simp] theorem setTap_fc (t : Tap) (v : Sample) : (s.setTap t v).fc = s.fc := by cases t <;> rfl
@[simp] theorem setTap_start (t : Tap) (v : Sample) : (s.setTap t v).start = s.start := by cases t <;> rfl
@[simp] theorem setTap_end_ (t : Tap) (v : Sample) : (s.setTap t v).end_ = s.end_ := by cases t <;> rfl
@[simp] theorem setTap_stop0 (t : Tap) (v : Sample) : (s.setTap t v).stop0 = s.stop0 := by cases t <;> rfl
@[simp] theorem setTap_stop1 (t : Tap) (v : Sample) : (s.setTap t v).stop1 = s.stop1 := by cases t <;> rfl
@[simp] theorem setTap_lei (t : Tap) (v : Sample) : (s.setTap t v).lei = s.lei := by cases t <;> rfl
@[simp] theorem setTap_lpe (t : Tap) (v : Sample) : (s.setTap t v).lpe = s.lpe := by cases t <;> rfl
@[simp] theorem setTap_ble (t : Tap) (v : Sample) : (s.setTap t v).ble = s.ble := by cases t <;> rfl
@[simp] theorem setTap_irqe (t : Tap) (v : Sample) : (s.setTap t v).irqe = s.irqe := by cases t <;> rfl
@[simp] theorem setTap_dir (t : Tap) (v : Sample) : (s.setTap t v).dir = s.dir := by cases t <;> rfl
@[simp] theorem setTap_irq (t : Tap) (v : Sample) : (s.setTap t v).irq = s.irq := by cases t <;> rfl
@[simp] theorem setTap_port (t : Tap) (v : Sample) : (s.setTap t v).port = s.port := by cases t <;> rfl
@[simp] theorem setTap_out (t : Tap) (v : Sample) : (s.setTap t v).out = s.out := by cases t <;> rfl
@[simp] theorem setTap_tap0 (v : Sample) : s.setTap .tap0 v = { s with sample0 := v } := rfl
@[simp] theorem setTap_tap1 (v : Sample) : s.setTap .tap1 v = { s with sample1 := v } := rfl

/-! ### `latchIrq` -/

/-- The latch as one record update. -/
theorem latchIrq_eq : s.latchIrq = { s with irq := s.irq || s.irqe } := by
  rcases s with ⟨_, _, _, _, _, _, _, _, _, _, _, _, irqe, _, irq, _, _⟩
  cases irqe <;> cases irq <;> rfl

@[simp] theorem latchIrq_cfg : s.latchIrq.cfg = s.cfg := by rw [latchIrq_eq]
@[simp] theorem latchIrq_accum : s.latchIrq.accum = s.accum := by rw [latchIrq_eq]
@[simp] theorem latchIrq_fc : s.latchIrq.fc = s.fc := by rw [latchIrq_eq]
@[simp] theorem latchIrq_start : s.latchIrq.start = s.start := by rw [latchIrq_eq]
@[simp] theorem latchIrq_end_ : s.latchIrq.end_ = s.end_ := by rw [latchIrq_eq]
@[simp] theorem latchIrq_sample0 : s.latchIrq.sample0 = s.sample0 := by rw [latchIrq_eq]
@[simp] theorem latchIrq_sample1 : s.latchIrq.sample1 = s.sample1 := by rw [latchIrq_eq]
@[simp] theorem latchIrq_stop0 : s.latchIrq.stop0 = s.stop0 := by rw [latchIrq_eq]
@[simp] theorem latchIrq_stop1 : s.latchIrq.stop1 = s.stop1 := by rw [latchIrq_eq]
@[simp] theorem latchIrq_lei : s.latchIrq.lei = s.lei := by rw [latchIrq_eq]
@[simp] theorem latchIrq_lpe : s.latchIrq.lpe = s.lpe := by rw [latchIrq_eq]
@[simp] theorem latchIrq_ble : s.latchIrq.ble = s.ble := by rw [latchIrq_eq]
@[simp] theorem latchIrq_irqe : s.latchIrq.irqe = s.irqe := by rw [latchIrq_eq]
@[simp] theorem latchIrq_dir : s.latchIrq.dir = s.dir := by rw [latchIrq_eq]
@[simp] theorem latchIrq_irq : s.latchIrq.irq = (s.irq || s.irqe) := by rw [latchIrq_eq]
@[simp] theorem latchIrq_port : s.latchIrq.port = s.port := by rw [latchIrq_eq]
@[simp] theorem latchIrq_out : s.latchIrq.out = s.out := by rw [latchIrq_eq]

/-! ### `tick` -/

@[simp] theorem tick_cfg : s.tick.cfg = s.cfg := by unfold tick; split <;> rfl
@[simp] theorem tick_fc : s.tick.fc = s.fc := by unfold tick; split <;> rfl
@[simp] theorem tick_start : s.tick.start = s.start := by unfold tick; split <;> rfl
@[simp] theorem tick_end_ : s.tick.end_ = s.end_ := by unfold tick; split <;> rfl
@[simp] theorem tick_sample0 : s.tick.sample0 = s.sample0 := by unfold tick; split <;> rfl
@[simp] theorem tick_sample1 : s.tick.sample1 = s.sample1 := by unfold tick; split <;> rfl
@[simp] theorem tick_stop0 : s.tick.stop0 = s.stop0 := by unfold tick; split <;> rfl
@[simp] theorem tick_stop1 : s.tick.stop1 = s.stop1 := by unfold tick; split <;> rfl
@[simp] theorem tick_lei : s.tick.lei = s.lei := by unfold tick; split <;> rfl
@[simp] theorem tick_lpe : s.tick.lpe = s.lpe := by unfold tick; split <;> rfl
@[simp] theorem tick_ble : s.tick.ble = s.ble := by unfold tick; split <;> rfl
@[simp] theorem tick_irqe : s.tick.irqe = s.irqe := by unfold tick; split <;> rfl
@[simp] theorem tick_dir : s.tick.dir = s.dir := by unfold tick; split <;> rfl
@[simp] theorem tick_irq : s.tick.irq = s.irq := by unfold tick; split <;> rfl
@[simp] theorem tick_port : s.tick.port = s.port := by unfold tick; split <;> rfl
@[simp] theorem tick_out : s.tick.out = s.out := by unfold tick; split <;> rfl

/-! ### `clear` -/

@[simp] theorem clear_cfg : s.clear.cfg = s.cfg := rfl
@[simp] theorem clear_accum : s.clear.accum = 0 := rfl
@[simp] theorem clear_fc : s.clear.fc = 0 := rfl
@[simp] theorem clear_start : s.clear.start = 0 := rfl
@[simp] theorem clear_end_ : s.clear.end_ = 0 := rfl
@[simp] theorem clear_sample0 : s.clear.sample0 = 0 := rfl
@[simp] theorem clear_sample1 : s.clear.sample1 = 0 := rfl
@[simp] theorem clear_stop0 : s.clear.stop0 = false := rfl
@[simp] theorem clear_stop1 : s.clear.stop1 = false := rfl
@[simp] theorem clear_lei : s.clear.lei = false := rfl
@[simp] theorem clear_lpe : s.clear.lpe = false := rfl
@[simp] theorem clear_ble : s.clear.ble = false := rfl
@[simp] theorem clear_irqe : s.clear.irqe = false := rfl
@[simp] theorem clear_dir : s.clear.dir = false := rfl
@[simp] theorem clear_irq : s.clear.irq = false := rfl
@[simp] theorem clear_port : s.clear.port = s.port := rfl
@[simp] theorem clear_out : s.clear.out = ⟨none, false⟩ := rfl

/-! ### Presenting commands -/

@[simp] theorem presentAll_port (ws : List Word) : (s.presentAll ws).port = s.port ++ ws := rfl

end Sys2Proof.Machine.State
end

