-- ==== Sys2Proof/Laws/Ops.lean ====
section
/-! SUPPORT. One lemma for each shared operation of Machine/Ops.lean, Operands.lean and Flags.lean: everything it can do. -/

namespace Sys2Proof.Machine

/-! ### Arithmetic -/

theorem maskN_lt (n : Nat) (v : Int) : maskN n v < 2 ^ n := by
  have h : (0 : Int) < 2 ^ n := by positivity
  have := Int.emod_lt_of_pos v h
  have := Int.emod_nonneg v h.ne'
  unfold maskN
  zify
  omega

theorem maskN_cast (n : Nat) (v : Int) : (maskN n v : Int) = v % 2 ^ n :=
  Int.toNat_of_nonneg (Int.emod_nonneg v (by positivity))

theorem maskN_natCast (n v : Nat) : maskN n v = v % 2 ^ n := by
  zify
  exact maskN_cast n v

/-- A value in range is kept. -/
theorem maskN_of_lt {n v : Nat} (h : v < 2 ^ n) : maskN n v = v := by
  rw [maskN_natCast, Nat.mod_eq_of_lt h]

theorem field_lt (v lo width : Nat) : field v lo width < 2 ^ width := Nat.mod_lt _ (by positivity)

/-- The whole field from bit 0 is the value modulo its width. -/
theorem field_zero (v width : Nat) : field v 0 width = v % 2 ^ width := by simp [field]

/-- A field put back in its place: the value's low bits less its bits below the field. -/
theorem field_mul (v lo width : Nat) : field v lo width * 2 ^ lo = v % 2 ^ (width + lo) - v % 2 ^ lo := by
  have h : v % 2 ^ (width + lo) = v % 2 ^ lo + 2 ^ lo * (v / 2 ^ lo % 2 ^ width) := by
    rw [Nat.add_comm, pow_add, Nat.mod_mul]
  rw [h, field, Nat.mul_comm]
  omega

theorem two_pow_le {n : Nat} (h : n ≤ 32) : 2 ^ n ≤ 4294967296 := by
  simpa using Nat.pow_le_pow_right (n := 2) (by decide) h

/-- A value of at most 32 bits fits the container a register is held in. -/
theorem toNat_ofNat_of_lt {n v : Nat} (hn : n ≤ 32) (hv : v < 2 ^ n) : (BitVec.ofNat 32 v).toNat = v := by
  have := two_pow_le hn
  rw [BitVec.toNat_ofNat]
  omega

/-! ### The masked write of `accum` -/

theorem setAccum_accum_toNat (s : State) (v : Int) (h : s.cfg.accBits ≤ 32) :
    (s.setAccum v).accum.toNat = maskN s.cfg.accBits v := toNat_ofNat_of_lt h (maskN_lt _ _)

/-- Every write to `accum` stores `mask_ACC_BITS` of the value (10_state.md R23). -/
theorem setAccum_accum_cast (s : State) (v : Int) (h : s.cfg.accBits ≤ 32) :
    ((s.setAccum v).accum.toNat : Int) = v % 2 ^ s.cfg.accBits := by
  rw [setAccum_accum_toNat s v h, maskN_cast]

theorem setAccum_eq (s : State) (v : Int) : s.setAccum v = { s with accum := (s.setAccum v).accum } := rfl

/-! ### Operands -/

theorem fcOperand_toNat (c : Config) (d : Data) : (fcOperand c d).toNat = d.toNat % 2 ^ c.fcBits := by
  have := d.isLt
  have := Nat.mod_le d.toNat (2 ^ c.fcBits)
  rw [fcOperand, field_zero, BitVec.toNat_ofNat]
  omega

theorem boundaryOperand_toNat (c : Config) (d : Data) :
    (boundaryOperand c d).toNat = d.toNat % 2 ^ c.accBits - d.toNat % 2 ^ c.fracBits := by
  have := d.isLt
  have := Nat.mod_le d.toNat (2 ^ c.accBits)
  rw [boundaryOperand, field_mul, Config.accBits, BitVec.toNat_ofNat]
  simp only [Config.accBits] at this
  omega

/-- A boundary operand is `ACC_BITS` wide and has no fraction (R26, R27). -/
theorem boundaryOperand_legal (c : Config) (d : Data) :
    (boundaryOperand c d).toNat < 2 ^ c.accBits ∧ (boundaryOperand c d).toNat % 2 ^ c.fracBits = 0 := by
  have hd : (boundaryOperand c d).toNat = field d.toNat c.fracBits c.intBits * 2 ^ c.fracBits := by
    rw [boundaryOperand_toNat, field_mul, Config.accBits]
  constructor
  · rw [boundaryOperand_toNat]
    have := Nat.mod_lt d.toNat (Nat.two_pow_pos c.accBits)
    omega
  · rw [hd, Nat.mul_mod_left]

/-- A boundary that is already legal is written as it is. -/
theorem boundaryOperand_of_legal {c : Config} {d : Data} (h : d.toNat < 2 ^ c.accBits) (hf : d.toNat % 2 ^ c.fracBits = 0) :
    boundaryOperand c d = d := by
  apply BitVec.eq_of_toNat_eq
  rw [boundaryOperand_toNat, hf, Nat.mod_eq_of_lt h, Nat.sub_zero]

theorem fcOperand_of_lt {c : Config} {d : Data} (h : d.toNat < 2 ^ c.fcBits) : fcOperand c d = d := by
  apply BitVec.eq_of_toNat_eq
  rw [fcOperand_toNat, Nat.mod_eq_of_lt h]

@[simp] theorem tapData_toNat (v : Sample) : (tapData v).toNat = v.toNat := by
  have := v.isLt
  simp [tapData]
  omega

/-! ### Flags -/

theorem busy_iff (s : State) : s.busy = true ↔ s.stop0 = false ∧ s.stop1 = false := by
  simp [State.busy]

theorem crossed_iff (s : State) : s.crossed = true ↔
    s.lei = false ∧ (s.dir = true ∧ s.accum.toNat < s.start.toNat ∨ s.dir = false ∧ s.end_.toNat < s.accum.toNat) := by
  simp [State.crossed, BitVec.ult]

theorem crWord_toNat : ∀ irq dir irqe ble lpe lei stop1 stop0 : Bool,
    (State.crWord irq dir irqe ble lpe lei stop1 stop0).toNat =
      stop0.toNat + 2 * stop1.toNat + 4 * lei.toNat + 8 * lpe.toNat + 16 * ble.toNat + 32 * irqe.toNat + 64 * dir.toNat +
        128 * irq.toNat := by decide

theorem crWord_bits : ∀ irq dir irqe ble lpe lei stop1 stop0 : Bool,
    let b := (State.crWord irq dir irqe ble lpe lei stop1 stop0).extractLsb' 0 8
    b.getLsbD 0 = stop0 ∧ b.getLsbD 1 = stop1 ∧ b.getLsbD 2 = lei ∧ b.getLsbD 3 = lpe ∧ b.getLsbD 4 = ble ∧
      b.getLsbD 5 = irqe ∧ b.getLsbD 6 = dir ∧ b.getLsbD 7 = irq := by decide

/-- The control word by place value (10_state.md R39). -/
theorem crView_toNat (s : State) : s.crView.toNat =
    s.stop0.toNat + 2 * s.stop1.toNat + 4 * s.lei.toNat + 8 * s.lpe.toNat + 16 * s.ble.toNat + 32 * s.irqe.toNat +
      64 * s.dir.toNat + 128 * s.irq.toNat := crWord_toNat ..

/-- Writing back the low byte of the control word that was read restores every control bit. -/
theorem loadCr_crView (s u : State) : u.loadCr (s.crView.extractLsb' 0 8) =
    { u with stop0 := s.stop0, stop1 := s.stop1, lei := s.lei, lpe := s.lpe, ble := s.ble, irqe := s.irqe, dir := s.dir,
             irq := s.irq } := by
  obtain ⟨h0, h1, h2, h3, h4, h5, h6, h7⟩ := crWord_bits s.irq s.dir s.irqe s.ble s.lpe s.lei s.stop1 s.stop0
  simp only [State.loadCr, State.crView, h0, h1, h2, h3, h4, h5, h6, h7]

end Sys2Proof.Machine
end

