-- ==== Sys2Proof/Laws/Loop.lean ====
section
/-! SUPPORT. What `tick`, the loop policies and `STEP` can do, said once (40_step_loop.md). -/

namespace Sys2Proof.Machine

/-! ### `tick` -/

theorem tick_forward (s : State) (h : s.dir = false) : s.tick = s.setAccum (s.accum.toNat + s.fc.toNat) := by
  simp [State.tick, h]

theorem tick_reverse (s : State) (h : s.dir = true) : s.tick = s.setAccum (s.accum.toNat - s.fc.toNat) := by
  simp [State.tick, h]

theorem tick_eq (s : State) : s.tick = { s with accum := s.tick.accum } := by
  unfold State.tick
  split <;> rfl

/-- A `tick` that does not leave the space adds exactly `fc`. -/
theorem tick_forward_of_lt (s : State) (hd : s.dir = false) (hc : s.cfg.accBits ≤ 32)
    (h : s.accum.toNat + s.fc.toNat < 2 ^ s.cfg.accBits) : s.tick.accum.toNat = s.accum.toNat + s.fc.toNat := by
  rw [tick_forward s hd, setAccum_accum_toNat _ _ hc]
  exact_mod_cast maskN_of_lt h

/-- A reverse `tick` that does not borrow subtracts exactly `fc`. -/
theorem tick_reverse_of_le (s : State) (hd : s.dir = true) (hc : s.cfg.accBits ≤ 32)
    (ha : s.accum.toNat < 2 ^ s.cfg.accBits) (h : s.fc.toNat ≤ s.accum.toNat) :
    s.tick.accum.toNat = s.accum.toNat - s.fc.toNat := by
  rw [tick_reverse s hd, setAccum_accum_toNat _ _ hc, ← Nat.cast_sub h]
  exact maskN_of_lt (by omega)

/-! ### The loop policies -/

theorem reflect_accum_cast (s : State) (b : Data) (h : s.cfg.accBits ≤ 32) :
    ((s.reflect b).accum.toNat : Int) = ((b.toNat : Int) + (b.toNat - s.accum.toNat)) % 2 ^ s.cfg.accBits :=
  setAccum_accum_cast s _ h

theorem wrap_accum_cast (s : State) (b c : Data) (h : s.cfg.accBits ≤ 32) :
    ((s.wrap b c).accum.toNat : Int) = ((c.toNat : Int) - (b.toNat - s.accum.toNat)) % 2 ^ s.cfg.accBits :=
  setAccum_accum_cast s _ h

theorem reflect_eq (s : State) (b : Data) : s.reflect b = { s with accum := (s.reflect b).accum } := rfl

theorem wrap_eq (s : State) (b c : Data) : s.wrap b c = { s with accum := (s.wrap b c).accum } := rfl

/-- The loop policy of a crossing in the direction of travel: `boundary` is the one passed, `other` the opposite one. -/
def policy (s : State) (boundary other : Data) : State :=
  if s.lpe && s.ble then { s.reflect boundary with dir := !s.dir }
  else if s.lpe then s.wrap boundary other
  else if s.ble && s.cfg.transwave then s.convert.wrap boundary other
  else { s with stop0 := true }

/-- `loop_exec` is the interrupt latch and then one policy, the same in both directions with `start` and `end` swapped
(R106 to R113). -/
theorem loopExec_eq_policy (s : State) : s.loopExec =
    if s.dir then policy s.latchIrq s.start s.end_ else policy s.latchIrq s.end_ s.start := by
  cases h : s.dir <;>
    simp [State.loopExec, State.reverseCrossing, State.forwardCrossing, policy, h]

/-- What a policy can do: one of four branches (R115). -/
theorem policy_cases (s : State) (b c : Data) :
    (s.lpe = true ∧ s.ble = true ∧ policy s b c = { s with accum := (s.reflect b).accum, dir := !s.dir }) ∨
    (s.lpe = true ∧ s.ble = false ∧ policy s b c = { s with accum := (s.wrap b c).accum }) ∨
    (s.lpe = false ∧ s.ble = true ∧ s.cfg.transwave = true ∧
      policy s b c = { s with accum := (s.wrap b c).accum, lpe := false, ble := false, lei := true }) ∨
    (s.lpe = false ∧ (s.ble = false ∨ s.cfg.transwave = false) ∧ policy s b c = { s with stop0 := true }) := by
  cases h1 : s.lpe <;> cases h2 : s.ble <;> cases h3 : s.cfg.transwave <;>
    simp [policy, h1, h2, h3, State.reflect, State.wrap, State.setAccum, State.convert]

/-! ### `STEP` -/

/-- What a `STEP` can do: nothing, a `tick`, or a `tick` and `loop_exec` (R116). -/
theorem advance_cases (s : State) :
    (s.busy = false ∧ s.advance = s.answer Out.idle) ∨
    (s.busy = true ∧ s.tick.crossed = false ∧ s.advance = s.tick.answer Out.idle) ∨
    (s.busy = true ∧ s.tick.crossed = true ∧ s.advance = s.tick.loopExec.answer Out.crossing) := by
  cases h : s.busy <;> cases h' : s.tick.crossed <;> simp [State.advance, State.tickAndLoop, h, h']

theorem advance_of_stopped (s : State) (h : s.busy = false) : s.advance = s.answer Out.idle := by
  simp [State.advance, h]

theorem advance_of_not_crossed (s : State) (hb : s.busy = true) (h : s.tick.crossed = false) :
    s.advance = s.tick.answer Out.idle := by
  simp [State.advance, State.tickAndLoop, hb, h]

theorem advance_of_crossed (s : State) (hb : s.busy = true) (h : s.tick.crossed = true) :
    s.advance = s.tick.loopExec.answer Out.crossing := by
  simp [State.advance, State.tickAndLoop, hb, h]

end Sys2Proof.Machine
end

