-- ==== Sys2Proof/Laws/Invariant.lean ====
section
/-! SUPPORT. Every shared operation keeps a legal state legal. -/

namespace Sys2Proof.Machine

/-- `State.Inv` reads the configuration and four registers only. -/
theorem inv_congr {s t : State} (hc : t.cfg = s.cfg) (ha : t.accum = s.accum) (hf : t.fc = s.fc) (hs : t.start = s.start)
    (he : t.end_ = s.end_) (h : s.Inv) : t.Inv := by
  simpa only [State.Inv, hc, ha, hf, hs, he] using h

theorem inv_setAccum {s : State} (v : Int) (h : s.Inv) : (s.setAccum v).Inv := by
  refine ⟨h.1, ?_, h.2.2⟩
  rw [setAccum_accum_toNat _ _ h.1.2.2.1]
  exact maskN_lt _ _

theorem inv_setFc {s : State} (d : Data) (h : s.Inv) : (s.setFc (fcOperand s.cfg d)).Inv := by
  refine ⟨h.1, h.2.1, ?_, h.2.2.2⟩
  simp only [State.setFc_fc, State.setFc_cfg, fcOperand_toNat]
  exact Nat.mod_lt _ (Nat.two_pow_pos _)

theorem inv_setStart {s : State} (d : Data) (h : s.Inv) : (s.setStart (boundaryOperand s.cfg d)).Inv :=
  ⟨h.1, h.2.1, h.2.2.1, boundaryOperand_legal s.cfg d, h.2.2.2.2⟩

theorem inv_setEnd {s : State} (d : Data) (h : s.Inv) : (s.setEnd (boundaryOperand s.cfg d)).Inv :=
  ⟨h.1, h.2.1, h.2.2.1, h.2.2.2.1, boundaryOperand_legal s.cfg d⟩

theorem inv_tick {s : State} (h : s.Inv) : s.tick.Inv := by
  cases hd : s.dir
  · rw [tick_forward s hd]; exact inv_setAccum _ h
  · rw [tick_reverse s hd]; exact inv_setAccum _ h

theorem inv_policy {s : State} (b c : Data) (h : s.Inv) : (policy s b c).Inv := by
  have hw : (s.wrap b c).Inv := inv_setAccum _ h
  have hr : (s.reflect b).Inv := inv_setAccum _ h
  rcases policy_cases s b c with ⟨_, _, e⟩ | ⟨_, _, e⟩ | ⟨_, _, _, e⟩ | ⟨_, _, e⟩ <;> rw [e]
  exacts [hr, hw, hw, h]

theorem inv_loopExec {s : State} (h : s.Inv) : s.loopExec.Inv := by
  have hl : s.latchIrq.Inv := by rw [State.latchIrq_eq]; exact h
  rw [loopExec_eq_policy]
  split
  exacts [inv_policy _ _ hl, inv_policy _ _ hl]

end Sys2Proof.Machine
end

