-- ==== Sys2Proof/Laws/Exec.lean ====
section
/-! SUPPORT. The next state of each command, said once; the frames of the commands read off these equations. -/

namespace Sys2Proof.Machine

/-- The state a command leads to. -/
def after (i : Instr) (s : State) : State :=
  match i with
  | .nop => s.answer Out.idle
  | .step => s.advance
  | .ldsmp t v => (s.setTap t v).answer Out.idle
  | .rdsmp t => s.answer (Out.data (tapData (s.tap t)))
  | .wrfc d => (s.setFc (fcOperand s.cfg d)).answer Out.idle
  | .wrstart d => (s.setStart (boundaryOperand s.cfg d)).answer Out.idle
  | .wrend d => (s.setEnd (boundaryOperand s.cfg d)).answer Out.idle
  | .wracc d => (s.setAccum (accOperand d)).answer Out.idle
  | .wrcr cr => (s.loadCr cr).answer Out.idle
  | .rdfc => s.answer (Out.data s.fc)
  | .rdstart => s.answer (Out.data s.start)
  | .rdend => s.answer (Out.data s.end_)
  | .rdacc => s.answer (Out.data s.accum)
  | .rdcr => s.answer (Out.data s.crView)
  | .irqclr => ({ s with irq := false } : State).answer Out.idle
  | .reset => s.clear.answer Out.idle

/-- Every command leads to a next state. -/
theorem exec_eq_after (i : Instr) (s : State) : exec i s = .next (after i s) := by cases i <;> rfl

/-- The inversion lemma of `exec`. -/
theorem exec_next_iff {i : Instr} {s t : State} : exec i s = .next t ↔ t = after i s := by
  rw [exec_eq_after]
  exact ⟨fun h => (Host.Outcome.next.inj h).symm, fun h => by rw [h]⟩

/-- A loop policy leaves the configuration and the waiting commands. -/
theorem policy_cfg_port (s : State) (b c : Data) : (policy s b c).cfg = s.cfg ∧ (policy s b c).port = s.port := by
  rcases policy_cases s b c with ⟨_, _, e⟩ | ⟨_, _, e⟩ | ⟨_, _, _, e⟩ | ⟨_, _, e⟩ <;> rw [e] <;> exact ⟨rfl, rfl⟩

/-- No command changes the configuration or the waiting commands. -/
theorem after_cfg_port (i : Instr) (s : State) : (after i s).cfg = s.cfg ∧ (after i s).port = s.port := by
  cases i
  case step =>
    show s.advance.cfg = s.cfg ∧ s.advance.port = s.port
    rcases advance_cases s with ⟨_, e⟩ | ⟨_, _, e⟩ | ⟨_, _, e⟩ <;> rw [e]
    · exact ⟨rfl, rfl⟩
    · simp
    · rw [loopExec_eq_policy]
      split <;> simp [policy_cfg_port]
  case ldsmp t v => cases t <;> exact ⟨rfl, rfl⟩
  all_goals exact ⟨rfl, rfl⟩

theorem fetch_cons {s : State} {w : Word} {rest : List Word} (h : s.port = w :: rest) :
    fetch s = (w, { s with port := rest }) := by
  simp [fetch, h]

theorem fetch_nil {s : State} (h : s.port = []) : fetch s = (nopWord, s) := by simp [fetch, h]

/-- A run splits after its first step. -/
theorem runs_succ {n : Nat} {s m t : State} (h : step s = .next m) : Runs (n + 1) s t ↔ Runs n m t := by
  constructor
  · rintro ⟨m', h', hr⟩
    rw [h] at h'
    cases h'
    exact hr
  · exact fun hr => ⟨m, h, hr⟩

/-- Two runs one after the other. -/
theorem runs_add {a b : Nat} {s m t : State} (h : Runs a s m) (h' : Runs b m t) : Runs (a + b) s t := by
  induction a generalizing s with
  | zero => cases h; simpa using h'
  | succ k ih =>
    obtain ⟨u, hu, hr⟩ := h
    rw [Nat.succ_add]
    exact ⟨u, hu, ih hr⟩

end Sys2Proof.Machine
end

