-- ==== Sys2Proof/Laws/PerInstr.lean ====
section
/-! SUPPORT. The per-instruction family EncodingFields: the word an instruction is encoded to has the opcode of its row, the
instruction's own operand fields, and 0 in every reserved bit (30_encoding.md R71, R74, R75). -/

namespace Sys2Proof.Laws.EncodingFields

/-- What is said of each instruction. -/
def Statement (i : Instr) : Prop :=
  opOf (encode i) = i.op ∧ (encode i).extractLsb' 33 3 = 0#3 ∧ (encode i).extractLsb' 32 1 = i.tapBit ∧
    dataOf (encode i) = i.dataField

/-- It holds of any instruction, by the layout alone. -/
theorem holds (i : Instr) : Statement i := by
  refine ⟨opOf_packWord .., ?_, ?_, dataOf_packWord ..⟩
  · apply BitVec.eq_of_getLsbD_eq
    intro k hk
    simp only [encode, packWord, BitVec.getLsbD_extractLsb', BitVec.getLsbD_append]
    have : k < 3 := hk
    interval_cases k <;> simp
  · apply BitVec.eq_of_getLsbD_eq
    intro k hk
    simp only [encode, packWord, BitVec.getLsbD_extractLsb', BitVec.getLsbD_append]
    have : k < 1 := hk
    interval_cases k
    simp

theorem nop : Statement .nop := holds _
theorem step : Statement .step := holds _
theorem ldsmp (tap : Tap) (value : Sample) : Statement (.ldsmp tap value) := holds _
theorem rdsmp (tap : Tap) : Statement (.rdsmp tap) := holds _
theorem wrfc (data : Data) : Statement (.wrfc data) := holds _
theorem wrstart (data : Data) : Statement (.wrstart data) := holds _
theorem wrend (data : Data) : Statement (.wrend data) := holds _
theorem wracc (data : Data) : Statement (.wracc data) := holds _
theorem wrcr (cr : BitVec 8) : Statement (.wrcr cr) := holds _
theorem rdfc : Statement .rdfc := holds _
theorem rdstart : Statement .rdstart := holds _
theorem rdend : Statement .rdend := holds _
theorem rdacc : Statement .rdacc := holds _
theorem rdcr : Statement .rdcr := holds _
theorem irqclr : Statement .irqclr := holds _
theorem reset : Statement .reset := holds _

end Sys2Proof.Laws.EncodingFields
end

