-- ==== Sys2Proof/Laws/Protocol.lean ====
section
/-! SUPPORT. What a sequence of commands does, as a fold over `after`, and the words of the assembler. -/

namespace Sys2Proof.Machine

/-- The answers and the last state of a sequence of commands. -/
def collect : List Instr → State → List (Option Data) × State
  | [], s => ([], s)
  | i :: is, s => ((after i s).out.rdata :: (collect is (after i s)).1, (collect is (after i s)).2)

/-- `runCollect` always goes on. -/
theorem runCollect_eq_collect (is : List Instr) (s : State) : runCollect is s = .next (collect is s) := by
  induction is generalizing s with
  | nil => rfl
  | cons i is ih =>
    rw [runCollect, exec_eq_after]
    simp only [ih]
    rfl

/-- A data operand assembles to the packed word. -/
theorem asmWord_data (op : BitVec 4) (d : Data) : asmWord op 0 d.toNat = packWord op 0#3 0#1 d := by
  have h : BitVec.ofInt 32 (d.toNat : Int) = d := by
    apply BitVec.eq_of_toNat_eq
    simp
  rw [asmWord, h]
  rfl

/-- The assembled word is the sum of R79 for operands that fit their fields. -/
theorem asmWord_eq_ofNat (op : BitVec 4) (tap d : Nat) (ht : tap < 2) (hd : d < 2 ^ 32) :
    asmWord op tap d = BitVec.ofNat 40 (op.toNat * 2 ^ 36 + tap * 2 ^ 32 + d) := by
  apply BitVec.eq_of_toNat_eq
  have hop := op.isLt
  have h : (asmWord op tap d).toNat = ((op.toNat <<< 3 ||| 0) <<< 1 ||| tap) <<< 32 ||| d := by
    simp only [asmWord, packWord, BitVec.toNat_append, BitVec.ofInt_natCast, BitVec.toNat_ofNat, Nat.mod_eq_of_lt ht,
      Nat.mod_eq_of_lt hd]
  rw [h, ← Nat.shiftLeft_add_eq_or_of_lt hd, Nat.or_zero, ← Nat.shiftLeft_add_eq_or_of_lt (by omega : tap < 2 ^ 1),
    BitVec.toNat_ofNat, Nat.mod_eq_of_lt (by omega)]
  simp only [Nat.shiftLeft_eq]
  omega

/-- `KEYON`'s data keeps the low byte of any operand, its stop bits cleared. -/
theorem keyOnCr_lt (cr : Nat) : cr &&& 0xFC < 2 ^ 8 := lt_of_le_of_lt Nat.and_le_right (by decide)

/-- `KEYOFF`'s data keeps the low byte of any operand, `stop1` set. -/
theorem keyOffCr_lt (cr : Nat) : (cr &&& 0xFF) ||| 0x02 < 2 ^ 8 :=
  Nat.or_lt_two_pow (lt_of_le_of_lt Nat.and_le_right (by decide)) (by decide)

/-- The low byte of the data of a `WRCR` word is the operand of the command. -/
theorem asmWord_wrcr (v : Nat) (h : v < 2 ^ 8) : asmWord 0x8 0 v = encode (.wrcr (BitVec.ofNat 8 v)) := by
  have e : BitVec.ofInt 32 (v : Int) = (BitVec.ofNat 8 v).setWidth 32 := by
    apply BitVec.eq_of_toNat_eq
    simp only [BitVec.ofInt_natCast, BitVec.toNat_ofNat, BitVec.toNat_setWidth]
    omega
  rw [asmWord, e]
  rfl

/-- `KEYON` is one `WRCR`, for an operand of any size. -/
theorem asmWord_keyOn (cr : Nat) : asmWord 0x8 0 (keyOnCr cr) = encode (.wrcr (BitVec.ofNat 8 cr &&& 0xFC#8)) := by
  rw [keyOnCr, Int.toNat_natCast, asmWord_wrcr _ (keyOnCr_lt cr), BitVec.ofNat_and]

/-- `KEYOFF` is one `WRCR`, for an operand of any size. -/
theorem asmWord_keyOff (cr : Nat) : asmWord 0x8 0 (keyOffCr cr) = encode (.wrcr (BitVec.ofNat 8 cr ||| 0x02#8)) := by
  have h : BitVec.ofNat 8 cr &&& 0xFF#8 = BitVec.ofNat 8 cr := by
    generalize BitVec.ofNat 8 cr = b
    revert b
    decide
  rw [keyOffCr, Int.toNat_natCast, asmWord_wrcr _ (keyOffCr_lt cr), BitVec.ofNat_or, BitVec.ofNat_and, h]

end Sys2Proof.Machine
end

