-- ==== Sys2Proof/Tests/Slice0.lean ====
section
/-! SUPPORT. The model's own tests, their expected results from spec/95_test_vectors.md and the encodings of spec/30_encoding.md,
and one witness for the hypotheses of each statement. -/

open Sys2Proof Sys2Proof.Machine Sys2Proof.Claims

namespace Sys2Proof.Tests

/-! ### Helpers -/

/-- CFG-A with `FC_BITS` 16 and CFG-B with `FC_BITS` 20 (00_scope.md R6). -/
def cA : Config := .cfgA 16
def cB : Config := .cfgB 20

/-- A state from the values the vectors list; what is not listed is 0. -/
def voice (c : Config) (accum fc start end_ : Data) (cr : BitVec 8) : State :=
  { (State.resetWith c).loadCr cr with accum := accum, fc := fc, start := start, end_ := end_ }

/-- The state with these taps. -/
def taps (s : State) (s0 s1 : Int) : State := { s with sample0 := BitVec.ofInt 16 s0, sample1 := BitVec.ofInt 16 s1 }

/-- A test on the next state, false where there is none. -/
def onNext (o : Host.Outcome State Fault Refusal) (p : State → Bool) : Bool :=
  match o with
  | .next t => p t
  | .fault _ => false
  | .refused _ => false

/-- One vector of 95_test_vectors.md section 2.2: a `STEP` and what it gives. -/
structure StepVector where
  cfg : Config
  fc : Data
  start : Data
  end_ : Data
  accum : Data
  cr : BitVec 8
  accum' : Data
  cr' : Data
  xing : Bool

def StepVector.holds (v : StepVector) : Bool :=
  onNext (exec .step (voice v.cfg v.accum v.fc v.start v.end_ v.cr))
    fun t => t.accum == v.accum' && t.crView == v.cr' && t.out == ⟨none, v.xing⟩

/-! ### Well-formedness: an ill-formed term for each check -/

theorem test_config_reference_wf : cA.WF ∧ cB.WF ∧ (Config.cfgA 29).WF ∧ (Config.cfgB 32).WF ∧ Config.initial.WF := by decide

theorem test_config_int_bits_refused : ¬ (⟨0, 9, 5, false⟩ : Config).WF := by decide
theorem test_config_frac_bits_refused : ¬ (⟨20, 8, 16, false⟩ : Config).WF := by decide
theorem test_config_acc_bits_refused : ¬ (⟨22, 11, 16, true⟩ : Config).WF := by decide
theorem test_config_fc_zero_refused : ¬ (⟨20, 9, 0, false⟩ : Config).WF := by decide
theorem test_config_fc_wide_refused : ¬ (⟨20, 9, 30, false⟩ : Config).WF := by decide

theorem test_asm_operand_refused :
    (Asm.ldsmp 2 0).wf = false ∧ (Asm.ldsmp 0 65536).wf = false ∧ (Asm.rdsmp (-1)).wf = false ∧
      (Asm.wrfc (2 ^ 32)).wf = false ∧ (Asm.wrstart (-1)).wf = false ∧ (Asm.wrend (2 ^ 32)).wf = false ∧
      (Asm.wracc (-1)).wf = false ∧ (Asm.wrcr (2 ^ 32)).wf = false ∧ (Asm.keyon (-1)).wf = false ∧
      (Asm.keyoff (2 ^ 32)).wf = false ∧ (Asm.fetch 0 (-32769)).wf = false ∧ (Asm.fetch 65536 0).wf = false ∧
      (Asm.setloop (-1) 0).wf = false ∧ (Asm.setloop 0 (2 ^ 32)).wf = false := by decide

/-! ### Decoding: words written out from the layout of R71 and the opcode map of R74 -/

theorem test_decode_step : decode 0b0001_000_0_00000000_00000000_00000000_00000000#40 = .step := by decide

theorem test_decode_sample :
    decode 0b0010_000_1_00000000_00000000_10000000_00000000#40 = .ldsmp .tap1 0x8000#16 ∧
    decode 0b0010_000_0_00000000_00000000_00000000_00000101#40 = .ldsmp .tap0 5#16 ∧
    decode 0b0011_000_1_00000000_00000000_00000000_00000000#40 = .rdsmp .tap1 ∧
    decode 0b0011_000_0_00000000_00000000_00000000_00000000#40 = .rdsmp .tap0 := by decide

theorem test_decode_writes :
    decode 0b0100_000_0_10000000_00000000_01000000_00000001#40 = .wrfc 0x80004001#32 ∧
    decode 0b0101_000_0_00000000_00000000_00000100_11111111#40 = .wrstart 0x4FF#32 ∧
    decode 0b0110_000_0_00000000_00010000_00000000_00000000#40 = .wrend 0x100000#32 ∧
    decode 0b0111_000_0_00100000_00000000_00010010_00110100#40 = .wracc 0x20001234#32 ∧
    decode 0b1000_000_0_00000000_00000000_00000000_10101001#40 = .wrcr 0xA9#8 := by decide

theorem test_decode_reads :
    decode 0b1001_000_0_00000000_00000000_00000000_00000000#40 = .rdfc ∧
    decode 0b1010_000_0_00000000_00000000_00000000_00000000#40 = .rdstart ∧
    decode 0b1011_000_0_00000000_00000000_00000000_00000000#40 = .rdend ∧
    decode 0b1100_000_0_00000000_00000000_00000000_00000000#40 = .rdacc ∧
    decode 0b1101_000_0_00000000_00000000_00000000_00000000#40 = .rdcr := by decide

theorem test_decode_control :
    decode 0b0000_000_0_00000000_00000000_00000000_00000000#40 = .nop ∧
    decode 0b1110_000_0_00000000_00000000_00000000_00000000#40 = .irqclr ∧
    decode 0b1111_000_0_00000000_00000000_00000000_00000000#40 = .reset := by decide

/-- V-E2 to V-E8: reserved and unused bits are ignored. -/
theorem test_decode_ignored_bits :
    decode 0x1E00000000#40 = .step ∧ decode 0x9100000000#40 = .rdfc ∧ decode 0x2012348000#40 = .ldsmp .tap0 0x8000#16 ∧
      decode 0x21FFFFFFFF#40 = .ldsmp .tap1 0xFFFF#16 ∧ decode 0x80FFFFFF3C#40 = .wrcr 0x3C#8 ∧
      decode 0x70FFFFFFFF#40 = .wracc 0xFFFFFFFF#32 ∧ decode 0xFFFFFFFFFF#40 = .reset := by decide

/-- The reference encodings of R81 that have operands, from the encoder's side. -/
theorem test_encode_reference :
    encode (.ldsmp .tap1 0x7FFF#16) = 0x2100007FFF#40 ∧ encode (.rdsmp .tap1) = 0x3100000000#40 ∧
      encode (.wrfc 0x4000#32) = 0x4000004000#40 ∧ encode (.wrend 0x100000#32) = 0x6000100000#40 ∧
      encode (.wrcr 0x08#8) = 0x8000000008#40 ∧ encode .irqclr = 0xE000000000#40 := by decide

theorem test_table_word :
    decodeTableWord 40 0x8000000008 = some (.wrcr 0x08#8) ∧ decodeTableWord 41 0 = none ∧
      decodeBits 48 0 = .error .longerThanOneWord := by decide

/-- V-E10 to V-E12, `LDSMP 0, -1` of R81, the two two-word pseudo-instructions of R80, and the masks of R80 on an operand above
`0xFF`. -/
theorem test_assemble :
    (Asm.ldsmp 0 (-100)).assemble = some [0x200000FF9C#40] ∧ (Asm.ldsmp 0 (-1)).assemble = some [0x200000FFFF#40] ∧
      (Asm.keyon 0xE1).assemble = some [0x80000000E0#40] ∧ (Asm.keyoff 0x48).assemble = some [0x800000004A#40] ∧
      (Asm.keyon 0x1FF).assemble = some [0x80000000FC#40] ∧ (Asm.keyoff 0x1FC).assemble = some [0x80000000FE#40] ∧
      (Asm.fetch 0x7FFF (-100)).assemble = some [0x2000007FFF#40, 0x210000FF9C#40] ∧
      (Asm.setloop 0x400 0x1000).assemble = some [0x5000000400#40, 0x6000001000#40] := by decide

/-! ### STEP -/

/-- V-L1 to V-L5, V-L10 to V-L14, V-L16 to V-L20, V-L22, V-L30, V-L32. -/
theorem test_step_forward : ([
    ⟨cA, 0x300, 0x400, 0x1000, 0xC00, 0x08, 0xF00, 0x08, false⟩,
    ⟨cA, 0x300, 0x400, 0x1000, 0xD00, 0x08, 0x1000, 0x08, false⟩,
    ⟨cA, 0x300, 0x400, 0x1000, 0xF00, 0x08, 0x600, 0x08, true⟩,
    ⟨cA, 0x300, 0x400, 0x1000, 0xF00, 0x28, 0x600, 0xA8, true⟩,
    ⟨cA, 0x300, 0x400, 0x1000, 0xF00, 0x18, 0xE00, 0x58, true⟩,
    ⟨cA, 0x300, 0x400, 0x1000, 0xF00, 0x20, 0x1200, 0xA1, true⟩,
    ⟨cA, 0x300, 0x400, 0x1000, 0xF00, 0x10, 0x1200, 0x11, true⟩,
    ⟨cA, 0x300, 0x400, 0x1000, 0xF00, 0x0C, 0x1200, 0x0C, false⟩,
    ⟨cA, 0x300, 0x400, 0x1000, 0xF00, 0x0A, 0xF00, 0x0A, false⟩,
    ⟨cB, 0xC00, 0x1000, 0x4000, 0x3800, 0x10, 0x1400, 0x04, true⟩,
    ⟨cB, 0xC00, 0x1000, 0x4000, 0x3800, 0x04, 0x4400, 0x04, false⟩,
    ⟨cA, 0, 0x400, 0x1000, 0x1000, 0x08, 0x1000, 0x08, false⟩,
    ⟨cA, 0, 0x400, 0x1000, 0x1200, 0x08, 0x600, 0x08, true⟩,
    ⟨cA, 0x200, 0x2000, 0x1000, 0xF00, 0x08, 0x2100, 0x08, true⟩,
    ⟨cA, 0x100, 0x1000, 0x1000, 0x1000, 0x08, 0x1100, 0x08, true⟩,
    ⟨cA, 0x100, 0x1000, 0x1000, 0x1000, 0x18, 0xF00, 0x58, true⟩,
    ⟨cA, 0x400, 0, 0x1FFFFE00, 0x1FFFFD00, 0x00, 0x100, 0x00, false⟩,
    ⟨cA, 0x3000, 0x400, 0x1000, 0xF00, 0x18, 0x1FFFE100, 0x58, true⟩,
    ⟨cA, 1, 0, 0x1FFFFE00, 0x1FFFFFFF, 0x00, 0, 0x00, false⟩,
    ⟨cA, 0x200, 0, 0, 0, 0x00, 0x200, 0x01, true⟩] : List StepVector).all StepVector.holds = true := by decide

/-- V-L6 to V-L9, V-L15, V-L19 (second and third), V-L21, V-L23, V-L27 to V-L29, V-L31. -/
theorem test_step_reverse : ([
    ⟨cA, 0x300, 0x400, 0x1000, 0x500, 0x58, 0x600, 0x18, true⟩,
    ⟨cA, 0x300, 0x400, 0x1000, 0x500, 0x48, 0xE00, 0x48, true⟩,
    ⟨cA, 0x300, 0x400, 0x1000, 0x700, 0x48, 0x400, 0x48, false⟩,
    ⟨cA, 0x300, 0x400, 0x1000, 0x500, 0x40, 0x200, 0x41, true⟩,
    ⟨cA, 0x300, 0x400, 0x1000, 0x200, 0x41, 0x200, 0x41, false⟩,
    ⟨cB, 0x400, 0x1000, 0x4000, 0x1200, 0x50, 0x3E00, 0x44, true⟩,
    ⟨cB, 0x400, 0x1000, 0x4000, 0x3E00, 0x44, 0x3A00, 0x44, false⟩,
    ⟨cA, 0x100, 0x1000, 0x1000, 0xF00, 0x58, 0x1200, 0x18, true⟩,
    ⟨cA, 0x200, 0, 0x1000, 0x100, 0x40, 0x1FFFFF00, 0x40, false⟩,
    ⟨cA, 0x800, 0x400, 0x1000, 0x500, 0x48, 0x1FFFFD00, 0x48, false⟩,
    ⟨cB, 0x300, 0x400, 0x1000, 0x500, 0x60, 0x200, 0xE1, true⟩,
    ⟨cA, 0x300, 0x400, 0x1000, 0x500, 0x50, 0x200, 0x51, true⟩,
    ⟨cB, 0x300, 0x400, 0x1000, 0x500, 0x58, 0x600, 0x18, true⟩,
    ⟨cA, 0x300, 0x400, 0x1000, 0x500, 0x41, 0x500, 0x41, false⟩] : List StepVector).all StepVector.holds = true := by decide

/-! ### Sample path -/

/-- V-S1 to V-S14. -/
theorem test_interp : ([
    (cA, 0x100#32, 0, 32767, 16383), (cA, 0x001#32, 100, -100, 99), (cA, 0x000#32, 1234, -5, 1234), (cA, 0x1FF#32, 0, 512, 511),
    (cA, 0x1FF#32, -32768, 32767, 32639), (cA, 0x1FF#32, 32767, -32768, -32641), (cA, 0x0FF#32, -1, 0, -1),
    (cA, 0x123#32, 32767, 32767, 32767), (cB, 0x7FF#32, 0, 512, 511), (cB, 0x003#32, 0, 512, 0), (cB, 0x404#32, -200, 200, 0),
    (cA, 0x180#32, -10, 10, 5), (cA, 0x080#32, 0, -1, -1), (cB, 0x12345#32, -32768, -32768, -32768)] :
      List (Config × Data × Int × Int × Int)).all
    (fun (c, a, s0, s1, r) => (taps (voice c a 0 0 0 0) s0 s1).outputs.interp.toInt == r) = true := by decide

/-- V-S15 to V-S18. -/
theorem test_addresses : ([
    (cA, 0x1234#32, 0x9, 0xA), (cB, 0x1234#32, 0x2, 0x3), (cA, 0x1FFFFFFF#32, 0xFFFFF, 0), (cB, 0xFFFFFFFF#32, 0x1FFFFF, 0)] :
      List (Config × Data × Nat × Nat)).all
    (fun (c, a, x, y) => (voice c a 0 0 0 0).outputs.addr0 == x && (voice c a 0 0 0 0).outputs.addr1 == y) = true := by decide

/-- V-S19: the other tap is unchanged. -/
theorem test_ldsmp : onNext (exec (.ldsmp .tap1 0x8000#16) (taps (voice cA 0 0 0 0 0) 7 9))
    (fun t => t.sample0.toInt == 7 && t.sample1.toInt == -32768) = true := by decide

/-- V-S20, V-S21: the pattern is zero-extended. -/
theorem test_rdsmp :
    onNext (exec (.rdsmp .tap0) (taps (voice cA 0 0 0 0 0) (-100) 3)) (fun t => t.out == ⟨some 0x0000FF9C#32, false⟩) = true ∧
    onNext (exec (.rdsmp .tap1) (taps (voice cA 0 0 0 0 0) 3 (-1))) (fun t => t.out == ⟨some 0x0000FFFF#32, false⟩) = true := by
  decide

/-! ### Register access -/

/-- V-R2. -/
theorem test_wrfc :
    onNext (exec (.wrfc 0x12345#32) (voice cA 0 0 0 0 0)) (fun t => t.fc == 0x2345#32) = true ∧
    onNext (exec (.wrfc 0x12345#32) (voice cB 0 0 0 0 0)) (fun t => t.fc == 0x12345#32) = true := by decide

/-- V-R3, V-R5. -/
theorem test_wrstart :
    onNext (exec (.wrstart 0x4FF#32) (voice cA 0 0 0 0 0)) (fun t => t.start == 0x400#32) = true ∧
    onNext (exec (.wrstart 0x12345678#32) (voice cB 0 0 0 0 0)) (fun t => t.start == 0x12345000#32) = true := by decide

/-- V-R4. -/
theorem test_wrend :
    onNext (exec (.wrend 0xFFFFFFFF#32) (voice cA 0 0 0 0 0)) (fun t => t.end_ == 0x1FFFFE00#32) = true ∧
    onNext (exec (.wrend 0xFFFFFFFF#32) (voice cB 0 0 0 0 0)) (fun t => t.end_ == 0xFFFFF800#32) = true := by decide

/-- V-R6. -/
theorem test_wracc :
    onNext (exec (.wracc 0x20001234#32) (voice cA 0 0 0 0 0)) (fun t => t.accum == 0x1234#32) = true ∧
    onNext (exec (.wracc 0x20001234#32) (voice cB 0 0 0 0 0)) (fun t => t.accum == 0x20001234#32) = true := by decide

/-- V-R8: `irq` is set with `irqe` 0, and drives `irq_out`. -/
theorem test_wrcr : onNext (exec (.wrcr 0x80#8) (voice cA 0 0 0 0 0x7F#8))
    (fun t => t.irq && !t.irqe && t.outputs.irqOut && t.outputs.busy) = true := by decide

/-- V-R12, V-R1. -/
theorem test_register_reads :
    onNext (exec .rdfc (voice cA 0xF00 0x4000 0x400 0x1000 0)) (fun t => t.out == ⟨some 0x4000#32, false⟩) = true ∧
    onNext (exec .rdstart (voice cA 0xF00 0x4000 0x400 0x1000 0)) (fun t => t.out == ⟨some 0x400#32, false⟩) = true ∧
    onNext (exec .rdend (voice cA 0xF00 0x4000 0x400 0x1000 0)) (fun t => t.out == ⟨some 0x1000#32, false⟩) = true ∧
    onNext (exec .rdacc (voice cA 0xF00 0x4000 0x400 0x1000 0)) (fun t => t.out == ⟨some 0xF00#32, false⟩) = true := by decide

/-- V-R9: the read leaves `irq` set. -/
theorem test_rdcr : onNext (exec .rdcr (voice cA 0 0 0 0 0xA8#8)) (fun t => t.out == ⟨some 0xA8#32, false⟩ && t.irq) = true := by
  decide

/-! ### Control -/

/-- V-C1, and the answer of the command before is replaced. -/
theorem test_nop : onNext (exec .nop { voice cA 0xF00 0x300 0x400 0x1000 0xA8 with out := ⟨some 1, true⟩ })
    (fun t => t == voice cA 0xF00 0x300 0x400 0x1000 0xA8) = true := by decide

/-- V-C2. -/
theorem test_irqclr : onNext (exec .irqclr (voice cA 0 0 0 0 0xA8#8)) (fun t => t.crView == 0x28#32) = true := by decide

/-- V-C4, V-C5: every field 0 after the setup of P2, `lei` included. -/
theorem test_reset : onNext (exec .reset (taps (voice cA 0xE00 0x300 0x400 0x1000 0xFC#8) 5 6)) (fun t => t == State.resetWith cA) = true := by
  decide

/-! ### The step -/

/-- The first command after reset runs: `WRFC 0x4000` of P1, from the word. -/
theorem test_first_step :
    onNext (step (State.reset.withFetchWord 40 0x4000004000)) (fun t => t.fc == 0x4000#32 && t.port == []) = true := by decide

/-- A cycle in which nothing is presented is a `NOP` (R180). -/
theorem test_idle_cycle : onNext (step State.reset) (fun t => t == State.reset) = true := by decide

/-! ### Witnesses: for each statement with hypotheses, a state and operands that meet them -/

/-- The base loop of the vectors, forward and about to cross `end`. -/
def fwd (cr : BitVec 8) : State := voice cA 0xF00 0x300 0x400 0x1000 cr
/-- The base loop, in reverse and about to cross `start`. -/
def rev (cr : BitVec 8) : State := voice cA 0x500 0x300 0x400 0x1000 cr

theorem witness_EveryCommandWordDecodes : (2 ^ 40 - 1 : Nat) < 2 ^ 40 ∧ 40 < 41 := by decide

theorem witness_AssembledLinesDecode :
    ((-32768 : Int) ≤ -32768 ∧ (-32768 : Int) ≤ 65535) ∧ ((-32768 : Int) ≤ 65535 ∧ (65535 : Int) ≤ 65535) ∧
      ((0 : Int) ≤ 2 ^ 32 - 1 ∧ (2 ^ 32 - 1 : Int) ≤ 2 ^ 32 - 1) ∧ (-32769 : Int) < -32768 ∧ (65535 : Int) < 65536 ∧
      (2 : Int) ≠ 0 ∧ (2 : Int) ≠ 1 ∧ (-1 : Int) < 0 ∧ (2 ^ 32 - 1 : Int) < 2 ^ 32 := by decide

/-- The greatest operand in range, and the nearest out of range on either side. -/
theorem witness_KeyOnStartsAndKeyOffStops :
    (4294967295 : Nat) ≤ 2 ^ 32 - 1 ∧ (-1 : Int) < 0 ∧ (2 ^ 32 - 1 : Int) < 4294967296 := by decide

theorem witness_StepRunsTheCommandPresented :
    (State.reset.withFetchWord 40 0x1000000000).port = 0x1000000000#40 :: [] ∧ State.reset.port = [] := by decide

theorem witness_StepKeepsStateLegal : (fwd 0x08).Inv ∧ step (fwd 0x08) = .next (fwd 0x08) := ⟨by decide, rfl⟩

theorem witness_ResetStateIsLegal : cA.WF ∧ cB.WF ∧ (⟨1, 9, 1, false⟩ : Config).WF ∧ (⟨21, 11, 32, true⟩ : Config).WF := by decide

theorem witness_StoppedStepChangesNothing : (fwd 0x01).stop0 = true ∧ (fwd 0x02).stop1 = true := by decide

theorem witness_TickAddsOrSubtractsStep :
    (fwd 0x08).cfg.WF ∧ (fwd 0x08).dir = false ∧ (rev 0x48).cfg.WF ∧ (rev 0x48).dir = true := by decide

/-- Running states, one that crosses and one that lands exactly on `end`. -/
theorem witness_StepReportsCrossing :
    (fwd 0x08).cfg.WF ∧ Running (fwd 0x08) ∧ Crosses (fwd 0x08) ∧ Running (voice cA 0xD00 0x300 0x400 0x1000 0x08) ∧
      ¬ Crosses (voice cA 0xD00 0x300 0x400 0x1000 0x08) := by decide

theorem witness_StepWithoutCrossing :
    (voice cA 0xD00 0x300 0x400 0x1000 0x08).cfg.WF ∧ Running (voice cA 0xD00 0x300 0x400 0x1000 0x08) ∧
      ¬ Crosses (voice cA 0xD00 0x300 0x400 0x1000 0x08) := by decide

theorem witness_CrossingLatchesIrq :
    (fwd 0x28).cfg.WF ∧ Running (fwd 0x28) ∧ Crosses (fwd 0x28) ∧ (fwd 0x28).irqe = true ∧
      ¬ Crosses (voice cA 0xD00 0x300 0x400 0x1000 0x28) := by decide

theorem witness_ReverseCrossingTurnsForward :
    (rev 0x58).cfg.WF ∧ Running (rev 0x58) ∧ (rev 0x58).dir = true ∧ Crosses (rev 0x58) ∧ (rev 0x58).lpe = true ∧
      (rev 0x58).ble = true := by decide

theorem witness_ReverseCrossingWraps :
    (rev 0x48).cfg.WF ∧ Running (rev 0x48) ∧ (rev 0x48).dir = true ∧ Crosses (rev 0x48) ∧ (rev 0x48).lpe = true ∧
      (rev 0x48).ble = false := by decide

theorem witness_ReverseCrossingConvertsTranswave :
    let s := voice cB 0x1200 0x400 0x1000 0x4000 0x50
    s.cfg.WF ∧ Running s ∧ s.dir = true ∧ Crosses s ∧ s.lpe = false ∧ s.ble = true ∧ s.cfg.transwave = true := by decide

/-- Both ways to have no loop policy: `ble` clear, and `ble` alone on a variant without transwave. -/
theorem witness_ReverseCrossingStops :
    ((rev 0x40).cfg.WF ∧ Running (rev 0x40) ∧ (rev 0x40).dir = true ∧ Crosses (rev 0x40) ∧ (rev 0x40).lpe = false ∧
      (rev 0x40).ble = false) ∧
    (rev 0x50).cfg.WF ∧ Running (rev 0x50) ∧ (rev 0x50).dir = true ∧ Crosses (rev 0x50) ∧ (rev 0x50).lpe = false ∧
      (rev 0x50).cfg.transwave = false := by decide

theorem witness_ForwardCrossingTurnsReverse :
    (fwd 0x18).cfg.WF ∧ Running (fwd 0x18) ∧ (fwd 0x18).dir = false ∧ Crosses (fwd 0x18) ∧ (fwd 0x18).lpe = true ∧
      (fwd 0x18).ble = true := by decide

theorem witness_ForwardCrossingWraps :
    (fwd 0x08).cfg.WF ∧ Running (fwd 0x08) ∧ (fwd 0x08).dir = false ∧ Crosses (fwd 0x08) ∧ (fwd 0x08).lpe = true ∧
      (fwd 0x08).ble = false := by decide

theorem witness_ForwardCrossingConvertsTranswave :
    let s := voice cB 0x3800 0xC00 0x1000 0x4000 0x10
    s.cfg.WF ∧ Running s ∧ s.dir = false ∧ Crosses s ∧ s.lpe = false ∧ s.ble = true ∧ s.cfg.transwave = true := by decide

theorem witness_ForwardCrossingStops :
    ((fwd 0x00).cfg.WF ∧ Running (fwd 0x00) ∧ (fwd 0x00).dir = false ∧ Crosses (fwd 0x00) ∧ (fwd 0x00).lpe = false ∧
      (fwd 0x00).ble = false) ∧
    (fwd 0x10).cfg.WF ∧ Running (fwd 0x10) ∧ (fwd 0x10).dir = false ∧ Crosses (fwd 0x10) ∧ (fwd 0x10).lpe = false ∧
      (fwd 0x10).cfg.transwave = false := by decide

/-- Exactly on the boundary of either direction. -/
theorem witness_ZeroStepHoldsOrCrosses_within :
    let on := voice cA 0x1000 0 0x400 0x1000 0x08
    let onRev := voice cA 0x400 0 0x400 0x1000 0x48
    (on.Inv ∧ Running on ∧ on.fc = 0 ∧ on.dir = false ∧ on.accum.toNat ≤ on.end_.toNat) ∧
    (onRev.Inv ∧ Running onRev ∧ onRev.fc = 0 ∧ onRev.dir = true ∧ onRev.start.toNat ≤ onRev.accum.toNat) := by decide

/-- One beyond the boundary of either direction. -/
theorem witness_ZeroStepHoldsOrCrosses_beyond :
    let above := voice cA 0x1001 0 0x400 0x1000 0x08
    let under := voice cA 0x3FF 0 0x400 0x1000 0x48
    (above.Inv ∧ Running above ∧ above.fc = 0 ∧ above.lei = false ∧ above.dir = false ∧
      above.end_.toNat < above.accum.toNat) ∧
    (under.Inv ∧ Running under ∧ under.fc = 0 ∧ under.lei = false ∧ under.dir = true ∧
      under.accum.toNat < under.start.toNat) := by decide

theorem witness_ReverseVoiceFromZeroNeverCrosses :
    (voice cA 0x100 0x200 0 0x1000 0x48).dir = true ∧ (voice cA 0x100 0x200 0 0x1000 0x48).start = 0 := by decide

/-- V-L17 and V-L18. -/
theorem witness_DegenerateForwardLoops :
    let a := voice cA 0xF00 0x200 0x2000 0x1000 0x08
    let b := voice cA 0x1000 0x200 0x1000 0x1000 0x08
    (a.Inv ∧ Running a ∧ a.dir = false ∧ a.lei = false ∧ a.lpe = true ∧ a.ble = false ∧
      a.end_.toNat < a.accum.toNat + a.fc.toNat ∧ a.end_.toNat ≤ a.start.toNat ∧
      a.accum.toNat + a.fc.toNat + (a.start.toNat - a.end_.toNat) < 2 ^ a.cfg.accBits) ∧
    (b.Inv ∧ Running b ∧ b.dir = false ∧ b.lei = false ∧ b.lpe = true ∧ b.ble = false ∧ b.end_.toNat < b.accum.toNat + b.fc.toNat ∧ b.end_.toNat = b.start.toNat ∧
      b.accum.toNat + b.fc.toNat + (b.start.toNat - b.end_.toNat) < 2 ^ b.cfg.accBits) := by decide

/-- V-L26: eight `STEP`s of the base loop. -/
theorem witness_ForwardLoopIsPeriodic :
    let s := (voice cA 0x400 0x300 0x400 0x1000 0x08).presentAll (List.replicate 8 (encode .step))
    s.Inv ∧ Running s ∧ s.dir = false ∧ s.lei = false ∧ s.lpe = true ∧ s.ble = false ∧ s.start.toNat < s.end_.toNat ∧
      s.accum.toNat ≤ s.end_.toNat ∧ s.fc.toNat ≤ s.end_.toNat - s.start.toNat ∧
      s.end_.toNat + s.fc.toNat < 2 ^ s.cfg.accBits ∧ s.port = List.replicate 8 (encode .step) := by decide

/-- The hypotheses of both clauses on the base loop at `accum`, with `m` `STEP`s waiting. -/
def BidirectionalPass (accum : Data) (n m : Nat) : Prop :=
  let s := (voice cA accum 0x300 0x400 0x1000 0x18).presentAll (List.replicate m (encode .step))
  s.Inv ∧ Running s ∧ s.dir = false ∧ s.lei = false ∧ s.lpe = true ∧ s.ble = true ∧ 0 < n ∧
    s.accum.toNat + (n - 1) * s.fc.toNat ≤ s.end_.toNat ∧ s.end_.toNat < s.accum.toNat + n * s.fc.toNat ∧
    s.accum.toNat + n * s.fc.toNat < 2 ^ s.cfg.accBits ∧ s.start.toNat ≤ s.accum.toNat ∧
    s.start.toNat + s.fc.toNat ≤ s.end_.toNat ∧ s.port = List.replicate m (encode .step)

/-- The longer way back: from one `fc` above `start` with the reverse pass ending exactly on `start`, and from `start + 0x180` with
`2 d = fc`, where both clauses hold. -/
theorem witness_BidirectionalPassReturns_long :
    (BidirectionalPass 0x700 4 7 ∧ 0x400 + 2 * (0x700 + 4 * 0x300 - 0x1000) ≤ 0x700 + 0x300) ∧
      BidirectionalPass 0x580 4 7 ∧ 0x400 + 2 * (0x580 + 4 * 0x300 - 0x1000) ≤ 0x580 + 0x300 := by
  unfold BidirectionalPass
  decide

/-- The shorter way back: V-L25, which starts on `start` and is back there after 8 `STEP`s, and `2 d = fc`. -/
theorem witness_BidirectionalPassReturns_short :
    (BidirectionalPass 0x400 5 8 ∧ 2 ≤ 5 ∧ 0x300 ≤ 2 * (0x400 + 5 * 0x300 - 0x1000)) ∧
      BidirectionalPass 0x580 4 6 ∧ 2 ≤ 4 ∧ 0x300 ≤ 2 * (0x580 + 4 * 0x300 - 0x1000) := by
  unfold BidirectionalPass
  decide

/-- One of the two clauses of BidirectionalPassReturns applies to every pass that meets its common hypotheses: `p` is `n * fc`, and
for `n = 1` it is `fc`. -/
theorem bidirectional_pass_has_a_way_back (n a fc p start end_ : Nat) (hp : n = 1 → p = fc) (hn : 0 < n)
    (hl : a + p ≤ end_ + fc) (hs : start ≤ a) (hf : start + fc ≤ end_) :
    start + 2 * (a + p - end_) ≤ a + fc ∨ 2 ≤ n ∧ fc ≤ 2 * (a + p - end_) := by omega

theorem witness_LoopEndIgnoreIsSticky :
    let s := (fwd 0x0C).presentAll [encode .step]
    s.lei = true ∧ (∀ w ∈ s.port, ¬ IsWrcr (decode w) ∧ decode w ≠ .reset) ∧ 0 < 1 ∧ ∃ t, Runs 1 s t := by
  refine ⟨rfl, ?_, by decide, _, _, rfl, rfl⟩
  intro w hw
  have hd : decode w = .step := by
    obtain rfl : w = encode .step := by simpa [State.presentAll, fwd, voice, State.resetWith, State.loadCr] using hw
    decide
  rw [hd]
  exact ⟨fun ⟨_, h⟩ => Instr.noConfusion h, by decide⟩

theorem witness_AccIntIsTheIntegerPart : (voice cB 0xFFFFFFFF 0 0 0 0).Inv := by decide

/-- An address below the top of the sample space, and the top itself. -/
theorem witness_FetchAddressesAreConsecutive :
    ((voice cA 0x1234 0 0 0 0).Inv ∧ (voice cA 0x1234 0 0 0 0).accInt + 1 < 2 ^ cA.intBits) ∧
      (voice cA 0x1FFFFFFF 0 0 0 0).Inv ∧ (voice cA 0x1FFFFFFF 0 0 0 0).accInt + 1 = 2 ^ cA.intBits := by decide

theorem witness_InterpolationLiesBetweenTaps :
    (taps (voice cA 0x200 0 0 0 0) 3 5).weight = 0 ∧ (taps (voice cA 0x200 0 0 0 0) 3 5).sample0.toInt < 5 := by decide

theorem witness_SnapshotRestoresState : (fwd 0x28).Inv ∧ (rev 0x58).cfg = (fwd 0x28).cfg := by decide

theorem witness_Stop1WrittenOnlyByWrcrAndReset :
    (exec .irqclr (fwd 0x82) = .next (fwd 0x02) ∧ ¬ IsWrcr .irqclr ∧ Instr.irqclr ≠ .reset) ∧
    (({ fwd 0x01 with stop1 := true } : State).busy = (fwd 0x01).busy ∧ exec .step (fwd 0x01) = .next (fwd 0x01)) :=
  ⟨⟨rfl, fun ⟨_, h⟩ => Instr.noConfusion h, by decide⟩, rfl, rfl⟩

theorem witness_IrqeWrittenOnlyByWrcrAndReset :
    (exec .irqclr (fwd 0xA8) = .next (fwd 0x28) ∧ ¬ IsWrcr .irqclr ∧ Instr.irqclr ≠ .reset) ∧
    onNext (exec .step (fwd 0x28)) (fun t => t.out.xing) = true ∧ (fwd 0x28).irqe = true :=
  ⟨⟨rfl, fun ⟨_, h⟩ => Instr.noConfusion h, by decide⟩, by decide, rfl⟩

/-- A `WRCR`, a `RESET` and a converting `STEP`, each changing `lei`. -/
theorem witness_LeiChangesOnlyAsStated :
    onNext (exec (.wrcr 0x04#8) (fwd 0x00)) (fun t => t.lei != (fwd 0x00).lei) = true ∧
    onNext (exec .reset (fwd 0x04)) (fun t => t.lei != (fwd 0x04).lei) = true ∧
    onNext (exec .step (voice cB 0x3800 0xC00 0x1000 0x4000 0x10)) (fun t => t.lei) = true := by decide

/-- Each way to set and to clear `irq`. -/
theorem witness_IrqChangesOnlyAsStated :
    onNext (exec .step (fwd 0x28)) (fun t => !(fwd 0x28).irq && t.irq) = true ∧
    onNext (exec (.wrcr 0x80#8) (fwd 0x00)) (fun t => t.irq) = true ∧
    onNext (exec .irqclr (fwd 0x80)) (fun t => !t.irq) = true ∧ onNext (exec .reset (fwd 0x80)) (fun t => !t.irq) = true ∧
    onNext (exec (.wrcr 0x00#8) (fwd 0x80)) (fun t => !t.irq) = true := by decide

theorem witness_BoundariesChangedOnlyByTheirWrites :
    onNext (exec (.wrstart 0x800#32) (fwd 0x00)) (fun t => t.start != (fwd 0x00).start) = true ∧
    onNext (exec (.wrend 0x800#32) (fwd 0x00)) (fun t => t.end_ != (fwd 0x00).end_) = true ∧ (fwd 0x00).Inv := by decide

theorem witness_AccessTable :
    onNext (exec .step (fwd 0x00)) (fun t => t.accum != (fwd 0x00).accum && t.stop0 != (fwd 0x00).stop0) = true ∧
    onNext (exec .step (fwd 0x18)) (fun t => t.dir != (fwd 0x18).dir) = true ∧
    onNext (exec .step (voice cB 0x3800 0xC00 0x1000 0x4000 0x10)) (fun t => !t.ble) = true ∧
    onNext (exec (.wrcr 0x58#8) (fwd 0x00)) (fun t => t.lpe && t.ble && t.dir) = true ∧
    onNext (exec .reset (fwd 0x58)) (fun t => !t.lpe && !t.ble && !t.dir) = true ∧
    onNext (exec (.wracc 1#32) (fwd 0x00)) (fun t => t.accum != (fwd 0x00).accum) = true ∧
    onNext (exec (.wrfc 1#32) (fwd 0x00)) (fun t => t.fc != (fwd 0x00).fc) = true ∧
    onNext (exec (.ldsmp .tap0 1#16) (fwd 0x00)) (fun t => t.sample0 != (fwd 0x00).sample0) = true ∧
    onNext (exec (.ldsmp .tap1 1#16) (fwd 0x00)) (fun t => t.sample1 != (fwd 0x00).sample1) = true := by decide

theorem witness_InstancesAreIndependent :
    1 < [fwd 0x28, fwd 0x28].length ∧ ([fwd 0x28, fwd 0x28] : List State).head? = some (fwd 0x28) ∧
      exec (decode (encode .irqclr)) (fwd 0xA8) = .next (fwd 0x28) := ⟨by decide, rfl, by rw [show decode (encode .irqclr) = .irqclr by decide]; rfl⟩

theorem witness_SlotDeliversFetchedSamples :
    (fwd 0x08).port = [] ∧ (fwd 0x08).busy = true ∧ (fwd 0x0A).port = [] ∧ (fwd 0x0A).busy = false := by decide

theorem witness_BootSequenceStartsTheVoice : (fwd 0xFF).cfg.WF ∧ (fwd 0xFF).port = [] := by decide

end Sys2Proof.Tests
end

/-! SUPPORT. What `STEP` leaves unchanged, and that every command keeps a legal state legal. -/

namespace Sys2Proof.Machine

/-! ### The frame of `STEP` -/

/-- A policy writes at most `accum`, `stop0`, `lei`, `lpe`, `ble` and `dir` (40_step_loop.md R115). -/
theorem policy_frame (s : State) (b c : Data) : policy s b c =
    { s with accum := (policy s b c).accum, stop0 := (policy s b c).stop0, lei := (policy s b c).lei,
             lpe := (policy s b c).lpe, ble := (policy s b c).ble, dir := (policy s b c).dir } := by
  rcases policy_cases s b c with ⟨_, _, e⟩ | ⟨_, _, e⟩ | ⟨_, _, _, e⟩ | ⟨_, _, e⟩ <;> rw [e]

/-- `loop_exec` writes what a policy writes, and latches `irq` (R105). -/
theorem loopExec_frame (s : State) : s.loopExec =
    { s with accum := s.loopExec.accum, stop0 := s.loopExec.stop0, lei := s.loopExec.lei, lpe := s.loopExec.lpe,
             ble := s.loopExec.ble, dir := s.loopExec.dir, irq := s.irq || s.irqe } := by
  rw [loopExec_eq_policy, State.latchIrq_eq]
  split
  · rw [policy_frame]
  · rw [policy_frame]

/-- `STEP` writes at most `accum`, the control bits other than `stop1` and `irqe`, and the answer (R116). -/
theorem advance_frame (s : State) : s.advance =
    { s with accum := s.advance.accum, stop0 := s.advance.stop0, lei := s.advance.lei, lpe := s.advance.lpe,
             ble := s.advance.ble, dir := s.advance.dir, irq := s.advance.irq, out := s.advance.out } := by
  rcases advance_cases s with ⟨_, e⟩ | ⟨_, _, e⟩ | ⟨_, _, e⟩ <;> rw [e]
  · rfl
  · rw [tick_eq]; rfl
  · rw [loopExec_frame, tick_eq]; rfl

namespace State

variable (s : State)

@[simp] theorem advance_cfg : s.advance.cfg = s.cfg := by rw [advance_frame]
@[simp] theorem advance_start : s.advance.start = s.start := by rw [advance_frame]
@[simp] theorem advance_end_ : s.advance.end_ = s.end_ := by rw [advance_frame]
@[simp] theorem advance_stop1 : s.advance.stop1 = s.stop1 := by rw [advance_frame]
@[simp] theorem advance_irqe : s.advance.irqe = s.irqe := by rw [advance_frame]

@[simp] theorem loopExec_irq : s.loopExec.irq = (s.irq || s.irqe) := by rw [loopExec_frame]

end State

/-- A `STEP` that reports a crossing latches `irq` when `irqe` is set (R105). -/
theorem advance_irq_of_xing {s : State} (hx : s.advance.out.xing = true) : s.advance.irq = (s.irq || s.irqe) := by
  rcases advance_cases s with ⟨_, e⟩ | ⟨_, _, e⟩ | ⟨_, _, e⟩ <;> rw [e] at hx ⊢
  · cases hx
  · cases hx
  · simp

/-! ### `stop1` in `STEP`: each operation commutes with a write to it -/

theorem tick_withStop1 (s : State) (b : Bool) : State.tick { s with stop1 := b } = { s.tick with stop1 := b } := by
  unfold State.tick
  split_ifs <;> rfl

theorem policy_withStop1 (s : State) (x y : Data) (b : Bool) :
    policy { s with stop1 := b } x y = { policy s x y with stop1 := b } := by
  unfold policy
  split_ifs <;> rfl

theorem loopExec_withStop1 (s : State) (b : Bool) :
    State.loopExec { s with stop1 := b } = { s.loopExec with stop1 := b } := by
  rw [loopExec_eq_policy, loopExec_eq_policy, State.latchIrq_eq, State.latchIrq_eq]
  split_ifs
  · exact policy_withStop1 { s with irq := s.irq || s.irqe } _ _ b
  · exact policy_withStop1 { s with irq := s.irq || s.irqe } _ _ b

/-- A write to `stop1` that does not change `busy` commutes with `STEP` (10_state.md R31). -/
theorem advance_withStop1 {s : State} {b : Bool} (h : State.busy { s with stop1 := b } = s.busy) :
    State.advance { s with stop1 := b } = { s.advance with stop1 := b } := by
  have hcross : (State.tick { s with stop1 := b }).crossed = s.tick.crossed := by rw [tick_withStop1]; rfl
  rcases advance_cases s with ⟨hb, e⟩ | ⟨hb, hc, e⟩ | ⟨hb, hc, e⟩
  · rw [e, advance_of_stopped _ (h.trans hb)]; rfl
  · rw [e, advance_of_not_crossed _ (h.trans hb) (hcross.trans hc), tick_withStop1]; rfl
  · rw [e, advance_of_crossed _ (h.trans hb) (hcross.trans hc), tick_withStop1, loopExec_withStop1]; rfl

/-! ### The writers of single elements -/

/-- The two control bits that no `STEP` writes: only `WRCR` and `RESET` write them (R31, R34). -/
theorem after_stop1_irqe {i : Instr} (hw : ¬ Claims.IsWrcr i) (hr : i ≠ .reset) (s : State) :
    (after i s).stop1 = s.stop1 ∧ (after i s).irqe = s.irqe := by
  cases i
  case step => exact ⟨s.advance_stop1, s.advance_irqe⟩
  case ldsmp t v => exact ⟨s.setTap_stop1 t v, s.setTap_irqe t v⟩
  case wrcr cr => exact absurd ⟨cr, rfl⟩ hw
  case reset => exact absurd rfl hr
  all_goals exact ⟨rfl, rfl⟩

/-- Only `WRSTART` and `RESET` write `start` (R26). -/
theorem writer_of_start_ne {i : Instr} {s : State} (h : (after i s).start ≠ s.start) : i = .reset ∨ ∃ d, i = .wrstart d := by
  cases i
  case step => exact absurd s.advance_start h
  case ldsmp t v => exact absurd (s.setTap_start t v) h
  case wrstart d => exact .inr ⟨d, rfl⟩
  case reset => exact .inl rfl
  all_goals exact absurd rfl h

/-- Only `WREND` and `RESET` write `end` (R27). -/
theorem writer_of_end_ne {i : Instr} {s : State} (h : (after i s).end_ ≠ s.end_) : i = .reset ∨ ∃ d, i = .wrend d := by
  cases i
  case step => exact absurd s.advance_end_ h
  case ldsmp t v => exact absurd (s.setTap_end_ t v) h
  case wrend d => exact .inr ⟨d, rfl⟩
  case reset => exact .inl rfl
  all_goals exact absurd rfl h

/-! ### Every command keeps a legal state legal -/

theorem inv_answer {s : State} (o : Out) (h : s.Inv) : (s.answer o).Inv := h

theorem inv_resetWith {c : Config} (h : c.WF) : (State.resetWith c).Inv :=
  ⟨h, by simp [State.resetWith]⟩

theorem inv_advance {s : State} (h : s.Inv) : s.advance.Inv := by
  rcases advance_cases s with ⟨_, e⟩ | ⟨_, _, e⟩ | ⟨_, _, e⟩ <;> rw [e] <;> apply inv_answer
  exacts [h, inv_tick h, inv_loopExec (inv_tick h)]

theorem inv_after (i : Instr) {s : State} (h : s.Inv) : (after i s).Inv := by
  cases i
  case step => exact inv_advance h
  case ldsmp t v => cases t <;> exact h
  case wrfc d => exact inv_answer _ (inv_setFc d h)
  case wrstart d => exact inv_answer _ (inv_setStart d h)
  case wrend d => exact inv_answer _ (inv_setEnd d h)
  case wracc d => exact inv_answer _ (inv_setAccum _ h)
  case reset => exact inv_resetWith h.1
  all_goals exact h

end Sys2Proof.Machine

/-! PROOFS. The statements about `stop1`, `irqe` and the loop boundaries (10_state.md R26, R27, R31, R34). -/

namespace Sys2Proof.Machine

/-- Settles O51: `STEP` leaves `stop1`, and a write to it that keeps `busy` commutes with every part of `STEP`. -/
theorem stop1WrittenOnlyByWrcrAndReset : Obligations.Stop1WrittenOnlyByWrcrAndReset := by
  refine ⟨fun i s t hx hw hr => ?_, fun s t b hb hx => ?_⟩
  · rw [exec_next_iff.mp hx]
    exact (after_stop1_irqe hw hr s).1
  · rw [exec_next_iff.mp hx]
    exact exec_next_iff.mpr (advance_withStop1 hb).symm

/-- Settles O52: `STEP` leaves `irqe`, and a reported crossing has run the latch. -/
theorem irqeWrittenOnlyByWrcrAndReset : Obligations.IrqeWrittenOnlyByWrcrAndReset := by
  refine ⟨fun i s t h hw hr => ?_, fun s t h hx he => ?_⟩
  · rw [exec_next_iff.mp h]
    exact (after_stop1_irqe hw hr s).2
  · obtain rfl : t = s.advance := exec_next_iff.mp h
    rw [advance_irq_of_xing hx, he, Bool.or_true]

/-- Settles O55: the writers of each boundary, and the format as a part of the invariant of legal states. -/
theorem boundariesChangedOnlyByTheirWrites : Obligations.BoundariesChangedOnlyByTheirWrites := by
  intro i s t h
  obtain rfl := exec_next_iff.mp h
  refine ⟨writer_of_start_ne, writer_of_end_ne, fun hs => ?_⟩
  obtain ⟨-, -, -, ⟨hstart, hstartFrac⟩, hend, hendFrac⟩ := inv_after i hs
  exact ⟨hstart, hstartFrac, hend, hendFrac⟩

end Sys2Proof.Machine

/-! SUPPORT. A running `STEP` in the terms of the statements: where `tick` moves to, when it crosses, and what each loop
policy then leads to, in either direction (40_step_loop.md R102 to R113). -/

namespace Sys2Proof.Machine

open Claims

/-! ### `tick` and the crossing test -/

theorem accBits_le_of_wf {c : Config} (h : c.WF) : c.accBits ≤ 32 := h.2.2.1

/-- `tick` moves to the position of R102 and R103. -/
theorem tick_accum_cast {s : State} (hwf : s.cfg.WF) : (s.tick.accum.toNat : Int) = ticked s := by
  have hbits := accBits_le_of_wf hwf
  cases hd : s.dir
  · rw [tick_forward s hd, setAccum_accum_cast _ _ hbits]
    simp [ticked, hd]
  · rw [tick_reverse s hd, setAccum_accum_cast _ _ hbits]
    simp [ticked, hd]

/-- The model's crossing test on the state after `tick` is the condition of R104. -/
theorem tick_crossed_iff {s : State} (hwf : s.cfg.WF) : s.tick.crossed = true ↔ Crosses s := by
  simp [crossed_iff, Crosses, ← tick_accum_cast hwf]

theorem advance_of_not_crosses {s : State} (hwf : s.cfg.WF) (hr : Running s) (hc : ¬ Crosses s) :
    s.advance = s.tick.answer Out.idle :=
  advance_of_not_crossed s ((busy_iff s).mpr hr) (Bool.eq_false_iff.mpr (mt (tick_crossed_iff hwf).mp hc))

theorem advance_of_crosses {s : State} (hwf : s.cfg.WF) (hr : Running s) (hc : Crosses s) :
    s.advance = s.tick.loopExec.answer Out.crossing :=
  advance_of_crossed s ((busy_iff s).mpr hr) ((tick_crossed_iff hwf).mpr hc)

/-! ### The branches of a policy -/

theorem policy_of_bidirectional {s : State} (b c : Data) (hl : s.lpe = true) (hb : s.ble = true) :
    policy s b c = { s with accum := (s.reflect b).accum, dir := !s.dir } := by
  exact if_pos (by rw [hl, hb]; rfl)

theorem policy_of_plainLoop {s : State} (b c : Data) (hl : s.lpe = true) (hb : s.ble = false) :
    policy s b c = s.wrap b c := by
  simp [policy, hl, hb]

theorem policy_of_noPolicy {s : State} (b c : Data) (hl : s.lpe = false) (hb : s.ble = false ∨ s.cfg.transwave = false) :
    policy s b c = { s with stop0 := true } := by
  rcases hb with hb | hb <;> simp [policy, hl, hb]

/-! ### A crossing in either direction -/

/-- The boundary a voice passes when it crosses. -/
def passedBoundary (s : State) : Data := if s.dir then s.start else s.end_

/-- The boundary at the other end of the loop. -/
def oppositeBoundary (s : State) : Data := if s.dir then s.end_ else s.start

theorem passedBoundary_reverse {s : State} (h : s.dir = true) : passedBoundary s = s.start := if_pos h
theorem passedBoundary_forward {s : State} (h : s.dir = false) : passedBoundary s = s.end_ := by simp [passedBoundary, h]
theorem oppositeBoundary_reverse {s : State} (h : s.dir = true) : oppositeBoundary s = s.end_ := if_pos h
theorem oppositeBoundary_forward {s : State} (h : s.dir = false) : oppositeBoundary s = s.start := by
  simp [oppositeBoundary, h]

/-- The state in which the policy of a crossing runs: `tick` has moved `accum`, the latch has set `irq` (R105). -/
theorem tick_latchIrq_eq (s : State) : s.tick.latchIrq = { s with accum := s.tick.accum, irq := s.irq || s.irqe } := by
  rw [State.latchIrq_eq, tick_eq]

/-- A crossing runs one policy, on the boundary passed and the opposite one. -/
theorem tick_loopExec_eq_policy (s : State) :
    s.tick.loopExec = policy s.tick.latchIrq (passedBoundary s) (oppositeBoundary s) := by
  rw [loopExec_eq_policy, passedBoundary, oppositeBoundary]
  cases h : s.dir <;> simp [h]

/-- The reflection of the ticked position about a boundary (R106, R110). -/
theorem reflect_ticked_cast {s : State} (hwf : s.cfg.WF) (b : Data) :
    ((s.tick.latchIrq.reflect b).accum.toNat : Int) = ((b.toNat : Int) + (b.toNat - ticked s)) % 2 ^ s.cfg.accBits := by
  simpa [tick_accum_cast hwf] using reflect_accum_cast s.tick.latchIrq b (by simpa using accBits_le_of_wf hwf)

/-- The wrap of the ticked position from one boundary to the other (R107, R111). -/
theorem wrap_ticked_cast {s : State} (hwf : s.cfg.WF) (b c : Data) :
    ((s.tick.latchIrq.wrap b c).accum.toNat : Int) = ((c.toNat : Int) - (b.toNat - ticked s)) % 2 ^ s.cfg.accBits := by
  simpa [tick_accum_cast hwf] using wrap_accum_cast s.tick.latchIrq b c (by simpa using accBits_le_of_wf hwf)

section Crossing

variable {s : State} (hwf : s.cfg.WF) (hr : Running s) (hc : Crosses s)
include hwf hr hc

/-- A crossing of a bidirectional loop reflects the position about the boundary passed and turns the voice round
(R106, R110). -/
theorem advance_of_crosses_bidirectional (hl : s.lpe = true) (hb : s.ble = true) : s.advance =
    { s with accum := (s.tick.latchIrq.reflect (passedBoundary s)).accum, dir := !s.dir, irq := s.irq || s.irqe,
             out := ⟨none, true⟩ } := by
  rw [advance_of_crosses hwf hr hc, tick_loopExec_eq_policy, policy_of_bidirectional _ _ (by simpa) (by simpa),
    tick_latchIrq_eq]
  rfl

/-- A crossing of a plain loop wraps the position and keeps the direction (R107, R111). -/
theorem advance_of_crosses_plainLoop (hl : s.lpe = true) (hb : s.ble = false) : s.advance =
    { s with accum := (s.tick.latchIrq.wrap (passedBoundary s) (oppositeBoundary s)).accum, irq := s.irq || s.irqe,
             out := ⟨none, true⟩ } := by
  rw [advance_of_crosses hwf hr hc, tick_loopExec_eq_policy, policy_of_plainLoop _ _ (by simpa) (by simpa),
    tick_latchIrq_eq]
  rfl

/-- A crossing with no loop policy stops the voice where `tick` put it (R109, R113). -/
theorem advance_of_crosses_noPolicy (hl : s.lpe = false) (hb : s.ble = false ∨ s.cfg.transwave = false) : s.advance =
    { s with accum := s.tick.accum, stop0 := true, irq := s.irq || s.irqe, out := ⟨none, true⟩ } := by
  rw [advance_of_crosses hwf hr hc, tick_loopExec_eq_policy, policy_of_noPolicy _ _ (by simpa) (by simpa),
    tick_latchIrq_eq]
  rfl

end Crossing

end Sys2Proof.Machine

/-! PROOFS. The statements about `tick`, the crossing test, the interrupt latch and the reverse crossings
(40_step_loop.md R102 to R107, R109). -/

namespace Sys2Proof.Machine

open Claims

/-- Settles O13: `tick` is the masked write of the sum or the difference, by direction. -/
theorem tickAddsOrSubtractsStep : Obligations.TickAddsOrSubtractsStep := by
  intro s hwf
  have hpos := tick_accum_cast hwf
  refine ⟨fun hd => ?_, fun hd => ?_, tick_eq s⟩
  · simpa [ticked, hd] using hpos
  · simpa [ticked, hd] using hpos

/-- Settles O14: the answer of a running `STEP` is chosen by the crossing test alone. -/
theorem stepReportsCrossing : Obligations.StepReportsCrossing := by
  intro s hwf hr
  refine ⟨s.advance, exec_next_iff.mpr rfl, ?_⟩
  by_cases hc : Crosses s
  · rw [advance_of_crosses hwf hr hc]
    exact ⟨rfl, fun _ => hc, fun _ => rfl⟩
  · rw [advance_of_not_crosses hwf hr hc]
    exact ⟨rfl, fun hx => Bool.noConfusion hx, fun hx => absurd hx hc⟩

/-- Settles O16: `loop_exec` latches `irq` before its branch, and `tick` does not write it. -/
theorem crossingLatchesIrq : Obligations.CrossingLatchesIrq := by
  intro s hwf hr
  refine ⟨s.advance, exec_next_iff.mpr rfl, fun hc => ?_, fun hc => ?_⟩
  · rw [advance_of_crosses hwf hr hc]
    simp
  · rw [advance_of_not_crosses hwf hr hc]
    simp

/-- Settles O17: the bidirectional branch, with `start` as the boundary passed. -/
theorem reverseCrossingTurnsForward : Obligations.ReverseCrossingTurnsForward := by
  intro s hwf hr hd hc hl hb
  have hadv := advance_of_crosses_bidirectional hwf hr hc hl hb
  rw [passedBoundary_reverse hd, hd] at hadv
  exact ⟨_, exec_next_iff.mpr hadv.symm, reflect_ticked_cast hwf s.start, rfl⟩

/-- Settles O18: the plain branch, with `start` as the boundary passed; the shift is the same sum regrouped. -/
theorem reverseCrossingWraps : Obligations.ReverseCrossingWraps := by
  intro s hwf hr hd hc hl hb
  have hadv := advance_of_crosses_plainLoop hwf hr hc hl hb
  rw [passedBoundary_reverse hd, oppositeBoundary_reverse hd] at hadv
  have hpos := wrap_ticked_cast hwf s.start s.end_
  have hregroup : (s.end_.toNat : Int) - (s.start.toNat - ticked s) = ticked s + (s.end_.toNat - s.start.toNat) := by
    ring
  exact ⟨_, exec_next_iff.mpr hadv.symm, hpos, hregroup ▸ hpos, rfl⟩

/-- Settles O20: the last branch writes `stop0` only, so the position is the one that crossed. -/
theorem reverseCrossingStops : Obligations.ReverseCrossingStops := by
  intro s hwf hr hd hc hl hb
  have hadv := advance_of_crosses_noPolicy hwf hr hc hl hb
  have hpos := tick_accum_cast hwf
  have hbelow : s.tick.accum.toNat < s.start.toNat := by
    obtain ⟨-, ⟨-, hlt⟩ | ⟨hfwd, -⟩⟩ := hc
    · exact_mod_cast hpos ▸ hlt
    · cases hd.symm.trans hfwd
  exact ⟨_, exec_next_iff.mpr hadv.symm, hpos, hbelow, rfl, rfl⟩

end Sys2Proof.Machine

/-! PROOFS. The integer part of `accum` (41_sample_path.md R130). -/

namespace Sys2Proof.Machine

/-- The field from bit `lo` to the top of a value that fits loses nothing: it is the whole quotient (00_scope.md R7). -/
theorem field_of_lt {v lo width : Nat} (h : v < 2 ^ (width + lo)) : field v lo width = v / 2 ^ lo := by
  have hquot : v / 2 ^ lo < 2 ^ width := Nat.div_lt_of_lt_mul (by rwa [← pow_add, Nat.add_comm])
  exact Nat.mod_eq_of_lt hquot

/-- Settles O34: a legal `accum` has `INT_BITS` bits above its fraction, so the field `acc_int` is the whole quotient. -/
theorem accIntIsTheIntegerPart : Obligations.AccIntIsTheIntegerPart := by
  intro s hs
  obtain ⟨-, haccum, -⟩ := hs
  exact ⟨field_of_lt haccum, field_lt _ _ _, rfl⟩

end Sys2Proof.Machine

/-! SUPPORT. The decoder as a map of the fields `op`, `tap` and `data` of a word, and the encoder as its inverse
(30_encoding.md R71 to R76). -/

namespace Sys2Proof

/-! ### The fields of a word -/

/-- The layout of R71: every word is packed from its own fields. -/
theorem packWord_fields (w : Word) :
    packWord (opOf w) (w.extractLsb' 33 3) (w.extractLsb' 32 1) (dataOf w) = w := by
  apply BitVec.eq_of_getLsbD_eq
  intro i hi
  simp only [packWord, opOf, dataOf, BitVec.getLsbD_append, BitVec.getLsbD_extractLsb']
  split
  · simp [*]
  split
  · simp [show i = 32 by omega]
  split
  · simp [show i - 32 - 1 < 3 by omega, show 33 + (i - 32 - 1) = i by omega]
  · simp [show i - 32 - 1 - 3 < 4 by omega, show 36 + (i - 32 - 1 - 3) = i by omega]

/-- The tap bit of a word is the bit of its tap. -/
theorem toBit_tapOf (w : Word) : (tapOf w).toBit = w.extractLsb' 32 1 := by
  have hbit : w.extractLsb' 32 1 = BitVec.ofBool (w.getLsbD 32) := by
    apply BitVec.eq_of_getLsbD_eq
    intro i hi
    simp [show i = 0 by omega]
  rw [tapOf, hbit]
  cases w.getLsbD 32 <;> rfl

theorem opOf_toNat (w : Word) : (opOf w).toNat = w.toNat / 2 ^ 36 := by
  have := w.isLt
  rw [opOf, BitVec.extractLsb'_toNat, Nat.shiftRight_eq_div_pow]
  omega

/-- Packed words are masked field by field. -/
theorem packWord_and (op op' : BitVec 4) (rsv rsv' : BitVec 3) (tap tap' : BitVec 1) (data data' : Data) :
    packWord op rsv tap data &&& packWord op' rsv' tap' data' =
      packWord (op &&& op') (rsv &&& rsv') (tap &&& tap') (data &&& data') := by
  have h : packWord op rsv tap data &&& packWord op' rsv' tap' data' =
      ((op ++ rsv ++ tap) &&& (op' ++ rsv' ++ tap')) ++ (data &&& data') := BitVec.and_append
  rw [h, BitVec.and_append, BitVec.and_append]
  rfl

/-! ### The opcode map -/

/-- The command that the opcode map of R74 gives for the fields of a word. -/
def instrOf (op : BitVec 4) (tap : Tap) (data : Data) : Instr :=
  match op.getLsbD 3, op.getLsbD 2, op.getLsbD 1, op.getLsbD 0 with
  | false, false, false, false => .nop
  | false, false, false, true => .step
  | false, false, true, false => .ldsmp tap (data.extractLsb' 0 16)
  | false, false, true, true => .rdsmp tap
  | false, true, false, false => .wrfc data
  | false, true, false, true => .wrstart data
  | false, true, true, false => .wrend data
  | false, true, true, true => .wracc data
  | true, false, false, false => .wrcr (data.extractLsb' 0 8)
  | true, false, false, true => .rdfc
  | true, false, true, false => .rdstart
  | true, false, true, true => .rdend
  | true, true, false, false => .rdacc
  | true, true, false, true => .rdcr
  | true, true, true, false => .irqclr
  | true, true, true, true => .reset

/-- `decode` reads a word through its fields only. -/
theorem decode_eq_instrOf (w : Word) : decode w = instrOf (opOf w) (tapOf w) (dataOf w) := by
  rw [instrOf, ← getLsbD_opOf w 3 (by decide), ← getLsbD_opOf w 2 (by decide), ← getLsbD_opOf w 1 (by decide),
    ← getLsbD_opOf w 0 (by decide)]
  rfl

theorem decode_packWord (op : BitVec 4) (rsv : BitVec 3) (t : Tap) (data : Data) :
    decode (packWord op rsv t.toBit data) = instrOf op t data := by
  rw [decode_eq_instrOf, opOf_packWord, tapOf_packWord, dataOf_packWord]

/-- The cases of the opcode map, one per value of `op` (R74). -/
theorem op_cases {P : BitVec 4 → Prop} (nop : P 0x0#4) (step : P 0x1#4) (ldsmp : P 0x2#4) (rdsmp : P 0x3#4)
    (wrfc : P 0x4#4) (wrstart : P 0x5#4) (wrend : P 0x6#4) (wracc : P 0x7#4) (wrcr : P 0x8#4) (rdfc : P 0x9#4)
    (rdstart : P 0xA#4) (rdend : P 0xB#4) (rdacc : P 0xC#4) (rdcr : P 0xD#4) (irqclr : P 0xE#4) (reset : P 0xF#4)
    (op : BitVec 4) : P op := by
  obtain ⟨n, hn⟩ := op
  interval_cases n <;> assumption

/-! ### The bits a command reads -/

/-- The data bits that the command selected by `op` reads (R72). -/
def dataMask (op : BitVec 4) : Data :=
  if op = 0x2#4 then 0xFFFF#32
  else if op = 0x4#4 ∨ op = 0x5#4 ∨ op = 0x6#4 ∨ op = 0x7#4 then 0xFFFFFFFF#32
  else if op = 0x8#4 then 0xFF#32
  else 0#32

/-- The tap bit, where the command selected by `op` reads it (R73). -/
def tapMask (op : BitVec 4) : BitVec 1 := if op = 0x2#4 ∨ op = 0x3#4 then 1#1 else 0#1

theorem usedBits_eq_packWord : ∀ op : BitVec 4,
    Claims.usedBits op.toNat = packWord 0xF#4 0#3 (tapMask op) (dataMask op) := by decide

/-- The low bits of the data, zero-extended, are the data masked. -/
theorem setWidth_extractLsb'_eq_and (d : Data) (k : Nat) :
    (d.extractLsb' 0 k).setWidth 32 = d &&& BitVec.ofNat 32 (2 ^ k - 1) := by
  apply BitVec.eq_of_getLsbD_eq
  intro i hi
  simp only [BitVec.getLsbD_setWidth, BitVec.getLsbD_extractLsb', BitVec.getLsbD_and, BitVec.getLsbD_ofNat,
    Nat.testBit_two_pow_sub_one, hi, decide_true, Bool.true_and, Nat.zero_add, Bool.and_comm]

theorem instrOf_op (op : BitVec 4) (t : Tap) (d : Data) : (instrOf op t d).op = op := by
  cases op using op_cases <;> rfl

theorem instrOf_tapBit (op : BitVec 4) (t : Tap) (d : Data) : (instrOf op t d).tapBit = t.toBit &&& tapMask op := by
  cases t <;> cases op using op_cases <;> rfl

theorem instrOf_dataField (op : BitVec 4) (t : Tap) (d : Data) : (instrOf op t d).dataField = d &&& dataMask op := by
  have hnone : 0#32 = d &&& 0#32 := BitVec.and_zero.symm
  have hall : d = d &&& 0xFFFFFFFF#32 := BitVec.and_allOnes.symm
  cases op using op_cases
  case ldsmp => exact setWidth_extractLsb'_eq_and d 16
  case wrcr => exact setWidth_extractLsb'_eq_and d 8
  case wrfc | wrstart | wrend | wracc => exact hall
  all_goals exact hnone

/-! ### Encoder and decoder -/

/-- The low bits of a zero-extended operand are the operand. -/
theorem extractLsb'_setWidth_sample (v : Sample) : (v.setWidth 32).extractLsb' 0 16 = v := by
  apply BitVec.eq_of_toNat_eq
  simp
  omega

theorem extractLsb'_setWidth_cr (cr : BitVec 8) : (cr.setWidth 32).extractLsb' 0 8 = cr := by
  apply BitVec.eq_of_toNat_eq
  simp
  omega

/-- Decoding gives back a command from the word it is encoded to. -/
theorem decode_encode (i : Instr) : decode (encode i) = i := by
  cases i
  case ldsmp t v =>
    exact (decode_packWord 0x2#4 0#3 t _).trans (congrArg (Instr.ldsmp t) (extractLsb'_setWidth_sample v))
  case wrcr cr =>
    exact (decode_packWord 0x8#4 0#3 .tap0 _).trans (congrArg Instr.wrcr (extractLsb'_setWidth_cr cr))
  case rdsmp t => exact decode_packWord 0x3#4 0#3 t 0#32
  case wrfc d => exact decode_packWord 0x4#4 0#3 .tap0 d
  case wrstart d => exact decode_packWord 0x5#4 0#3 .tap0 d
  case wrend d => exact decode_packWord 0x6#4 0#3 .tap0 d
  case wracc d => exact decode_packWord 0x7#4 0#3 .tap0 d
  all_goals rfl

/-- Encoding a decoded word masks each of its fields by what the command reads. -/
theorem encode_decode (w : Word) :
    encode (decode w) = packWord (opOf w) 0#3 (w.extractLsb' 32 1 &&& tapMask (opOf w)) (dataOf w &&& dataMask (opOf w)) := by
  rw [encode, decode_eq_instrOf, instrOf_op, instrOf_tapBit, instrOf_dataField, toBit_tapOf]

end Sys2Proof

/-! PROOFS. The statements about the encoder and the decoder (30_encoding.md R71 to R77, R81). -/

namespace Sys2Proof

/-- Settles O1: each word is the encoding of its command. -/
theorem referenceWordsDecode : Obligations.ReferenceWordsDecode := by
  unfold Obligations.ReferenceWordsDecode
  decide

/-- Settles O2: the decoder reads back the fields the encoder packs. -/
theorem decodeOfEncodeIsIdentity : Obligations.DecodeOfEncodeIsIdentity := decode_encode

/-- Settles O3: both sides are packed from the fields of the word, masked one by one. -/
theorem encodeOfDecodeKeepsUsedBits : Obligations.EncodeOfDecodeKeepsUsedBits := by
  intro w
  have hop : opOf w &&& 0xF#4 = opOf w := BitVec.and_allOnes
  calc encode (decode w)
      = packWord (opOf w) 0#3 (w.extractLsb' 32 1 &&& tapMask (opOf w)) (dataOf w &&& dataMask (opOf w)) := encode_decode w
    _ = packWord (opOf w) (w.extractLsb' 33 3) (w.extractLsb' 32 1) (dataOf w) &&&
          packWord 0xF#4 0#3 (tapMask (opOf w)) (dataMask (opOf w)) := by rw [packWord_and, hop, BitVec.and_zero]
    _ = w &&& Claims.usedBits (w.toNat / 2 ^ 36) := by rw [packWord_fields, ← usedBits_eq_packWord, opOf_toNat]

/-- A string of one word is decoded as that word. -/
theorem decodeTableWord_of_lt {w : Nat} (h : w < 2 ^ 40) : decodeTableWord 40 w = some (decode (BitVec.ofNat 40 w)) := by
  rw [decodeTableWord, decodeBits, if_pos le_rfl, Nat.mod_eq_of_lt h]
  rfl

theorem decodeTableWord_of_longer {nbits : Nat} (h : 40 < nbits) (w : Nat) : decodeTableWord nbits w = none := by
  rw [decodeTableWord, decodeBits, if_neg (by omega)]
  rfl

/-- Settles O4: the decoder is total on 40 bits, and the command it selects has the opcode of the word. -/
theorem everyCommandWordDecodes : Obligations.EveryCommandWordDecodes := by
  refine ⟨fun w hw => ⟨_, decodeTableWord_of_lt hw, ?_⟩, fun nbits w hn => decodeTableWord_of_longer hn w⟩
  rw [decode_eq_instrOf, instrOf_op, opOf_toNat, BitVec.toNat_ofNat, Nat.mod_eq_of_lt hw]

end Sys2Proof

/-! SUPPORT. One cycle as `after` on the command presented, what `exec` does not read, and runs of a sequence of commands
waiting on the port (20_memory.md R59, 30_encoding.md R70). -/

namespace Sys2Proof.Machine

/-! ### One cycle -/

theorem decode_nopWord : decode nopWord = .nop := by decide

/-- The command of a cycle is the oldest word presented, or a `NOP`; the cycle takes it off the port. -/
theorem fetch_eq (s : State) : fetch s = (s.port.headD nopWord, { s with port := s.port.tail }) := by
  cases h : s.port with
  | nil =>
    rw [fetch_nil h]
    show (nopWord, s) = (nopWord, { s with port := [] })
    rw [← h]
  | cons w rest => rw [fetch_cons h]; rfl

/-- Every cycle leads to a next state. -/
theorem step_eq_after (s : State) :
    step s = .next (after (decode (s.port.headD nopWord)) { s with port := s.port.tail }) := by
  rw [step, fetch_eq, exec_eq_after]

/-- The inversion lemma of `step`. -/
theorem step_next_iff {s t : State} :
    step s = .next t ↔ t = after (decode (s.port.headD nopWord)) { s with port := s.port.tail } := by
  rw [step, fetch_eq, exec_next_iff]

/-- A cycle with an encoded command at the head of the port runs that command. -/
theorem step_of_port_cons {s : State} {i : Instr} {rest : List Word} (h : s.port = encode i :: rest) :
    step s = .next (after i { s with port := rest }) := by
  rw [step_eq_after, h, List.headD_cons, decode_encode, List.tail_cons]

/-! ### What no command reads: the waiting commands and the last answer -/

theorem tick_withPortOut (s : State) (p : List Word) (o : Out) :
    State.tick { s with port := p, out := o } = { s.tick with port := p, out := o } := by
  unfold State.tick
  split_ifs <;> rfl

theorem policy_withPortOut (s : State) (x y : Data) (p : List Word) (o : Out) :
    policy { s with port := p, out := o } x y = { policy s x y with port := p, out := o } := by
  unfold policy
  split_ifs <;> rfl

theorem loopExec_withPortOut (s : State) (p : List Word) (o : Out) :
    State.loopExec { s with port := p, out := o } = { s.loopExec with port := p, out := o } := by
  rw [loopExec_eq_policy, loopExec_eq_policy, State.latchIrq_eq, State.latchIrq_eq]
  split_ifs
  · exact policy_withPortOut { s with irq := s.irq || s.irqe } _ _ p o
  · exact policy_withPortOut { s with irq := s.irq || s.irqe } _ _ p o

theorem advance_withPortOut (s : State) (p : List Word) (o : Out) :
    State.advance { s with port := p, out := o } = { s.advance with port := p } := by
  have hbusy : State.busy { s with port := p, out := o } = s.busy := rfl
  have hcross : (State.tick { s with port := p, out := o }).crossed = s.tick.crossed := by rw [tick_withPortOut]; rfl
  rcases advance_cases s with ⟨hb, e⟩ | ⟨hb, hc, e⟩ | ⟨hb, hc, e⟩
  · rw [e, advance_of_stopped _ (hbusy.trans hb)]; rfl
  · rw [e, advance_of_not_crossed _ (hbusy.trans hb) (hcross.trans hc), tick_withPortOut]; rfl
  · rw [e, advance_of_crossed _ (hbusy.trans hb) (hcross.trans hc), tick_withPortOut, loopExec_withPortOut]; rfl

/-- No command reads the waiting commands or the last answer, and each replaces the answer. -/
theorem after_withPortOut (i : Instr) (s : State) (p : List Word) (o : Out) :
    after i { s with port := p, out := o } = { after i s with port := p } := by
  cases i
  case step => exact advance_withPortOut s p o
  case ldsmp t v => cases t <;> rfl
  case rdsmp t => cases t <;> rfl
  all_goals rfl

theorem after_withPort (i : Instr) (s : State) (p : List Word) :
    after i { s with port := p } = { after i s with port := p } := after_withPortOut i s p s.out

theorem after_withOut (i : Instr) (s : State) (o : Out) : after i { s with out := o } = after i s := by
  have hport : after i { s with out := o } = { after i s with port := s.port } := after_withPortOut i s s.port o
  rw [hport, ← (after_cfg_port i s).2]

/-! ### Runs of the commands waiting -/

/-- The state a sequence of commands leads to does not depend on the commands waiting. -/
theorem collect_withPort (is : List Instr) (s : State) (p : List Word) :
    (collect is { s with port := p }).2 = { (collect is s).2 with port := p } := by
  induction is generalizing s with
  | nil => rfl
  | cons i is ih =>
    rw [collect, after_withPort, ih]
    rfl

/-- Encoded commands at the head of the port are run one per cycle, and the words behind them stay. -/
theorem runs_of_port_append {is : List Instr} {rest : List Word} {s : State} (h : s.port = is.map encode ++ rest) :
    Runs is.length s { (collect is s).2 with port := rest } := by
  induction is generalizing s with
  | nil =>
    obtain rfl : s.port = rest := h
    rfl
  | cons i is ih =>
    refine ⟨_, step_of_port_cons h, ?_⟩
    rw [after_withPort]
    have hrun := ih (s := { after i s with port := is.map encode ++ rest }) rfl
    rwa [collect_withPort] at hrun

theorem runs_of_port {is : List Instr} {s : State} (h : s.port = is.map encode) :
    Runs is.length s { (collect is s).2 with port := [] } := runs_of_port_append (by simpa using h)

/-- A sequence of `STEP`s iterates `STEP`. -/
theorem collect_replicate_step (n : Nat) (s : State) : (collect (List.replicate n .step) s).2 = State.advance^[n] s := by
  induction n generalizing s with
  | zero => rfl
  | succ n ih => exact ih s.advance

/-- A run of the `STEP`s waiting. -/
theorem runs_of_port_steps {n : Nat} {s : State} (h : s.port = List.replicate n (encode .step)) :
    Runs n s { State.advance^[n] s with port := [] } := by
  have hrun := runs_of_port (is := List.replicate n .step) (s := s) (by rw [h, List.map_replicate])
  rwa [List.length_replicate, collect_replicate_step] at hrun

/-! ### `lei` along a run -/

/-- With `lei` set a `STEP` only ticks (R37). -/
theorem advance_of_lei {s : State} (h : s.lei = true) : s.advance.lei = true ∧ s.advance.out.xing = false := by
  have hcross : s.tick.crossed = false := by simp [State.crossed, h]
  rcases advance_cases s with ⟨_, e⟩ | ⟨_, _, e⟩ | ⟨_, hc, _⟩
  · rw [e]; exact ⟨h, rfl⟩
  · rw [e]; exact ⟨s.tick_lei.trans h, rfl⟩
  · cases hcross.symm.trans hc

/-- Only `WRCR` and `RESET` clear `lei`, and no command reports a crossing while it is set. -/
theorem after_of_lei {i : Instr} {s : State} (h : s.lei = true) (hw : ¬ Claims.IsWrcr i) (hr : i ≠ .reset) :
    (after i s).lei = true ∧ (after i s).out.xing = false := by
  cases i
  case step => exact advance_of_lei h
  case ldsmp t v => exact ⟨(s.setTap_lei t v).trans h, rfl⟩
  case wrcr cr => exact absurd ⟨cr, rfl⟩ hw
  case reset => exact absurd rfl hr
  all_goals exact ⟨h, rfl⟩

/-- With neither a `WRCR` nor a `RESET` waiting, the next command is neither; the `NOP` of an idle cycle is neither. -/
theorem headD_not_wrcr_reset {p : List Word} (h : ∀ w ∈ p, ¬ Claims.IsWrcr (decode w) ∧ decode w ≠ .reset) :
    ¬ Claims.IsWrcr (decode (p.headD nopWord)) ∧ decode (p.headD nopWord) ≠ .reset := by
  cases p with
  | nil =>
    rw [List.headD_nil, decode_nopWord]
    exact ⟨fun ⟨_, hi⟩ => Instr.noConfusion hi, by decide⟩
  | cons w rest => exact h w List.mem_cons_self

end Sys2Proof.Machine

/-! PROOFS. The statements about one cycle, legal states and runs (10_state.md R37, R43, 60_exceptions.md R200). -/

namespace Sys2Proof.Machine

/-- Settles O7: the three shapes of the port, each by what `fetch` takes from it. -/
theorem stepRunsTheCommandPresented : Obligations.StepRunsTheCommandPresented := by
  refine ⟨fun s w rest h => by rw [step, fetch_cons h], fun s h => by rw [step, fetch_nil h, decode_nopWord], fun s w => ?_⟩
  have hword : BitVec.ofNat 40 (w % 2 ^ 40) = BitVec.ofNat 40 w := by
    apply BitVec.eq_of_toNat_eq
    simp
  rw [step, State.withFetchWord, fetch_cons rfl, hword]

/-- Settles O8: a cycle runs a command, and every command leads to a next state. -/
theorem everyStepGoesOn : Obligations.EveryStepGoesOn := fun s => ⟨_, step_eq_after s⟩

/-- Settles O9: taking a word off the port keeps a state legal, and so does every command. -/
theorem stepKeepsStateLegal : Obligations.StepKeepsStateLegal := by
  intro s t hs h
  rw [step_next_iff.mp h]
  have hfetched : State.Inv { s with port := s.port.tail } := hs
  exact ⟨inv_after _ hfetched, (after_cfg_port _ _).1⟩

/-- Settles O10: every register is 0 after reset. -/
theorem resetStateIsLegal : Obligations.ResetStateIsLegal :=
  ⟨inv_resetWith (by decide), fun _ hc => inv_resetWith hc⟩

/-- Settles O11: the state a command leads to is the same whatever the last answer was. -/
theorem lastAnswerIsNeverRead : Obligations.LastAnswerIsNeverRead := by
  intro i s o
  rw [exec_eq_after, exec_eq_after, after_withOut]

/-- Settles O31: by induction on the run, with the words still waiting free of `WRCR` and `RESET` at every step. -/
theorem loopEndIgnoreIsSticky : Obligations.LoopEndIgnoreIsSticky := by
  intro n
  induction n with
  | zero => exact fun s t _ _ hn => absurd hn (lt_irrefl 0)
  | succ k ih =>
    rintro s t hlei hport - ⟨m, hm, hrun⟩
    rw [step_next_iff] at hm
    obtain ⟨hw, hr⟩ := headD_not_wrcr_reset hport
    have hmid : m.lei = true ∧ m.out.xing = false := hm ▸ after_of_lei hlei hw hr
    have hmport : m.port = s.port.tail := hm ▸ (after_cfg_port _ _).2
    cases k with
    | zero =>
      obtain rfl : t = m := hrun
      exact hmid
    | succ k => exact ih m t hmid.1 (fun w hw => hport w (List.mem_of_mem_tail (hmport ▸ hw))) k.succ_pos hrun

end Sys2Proof.Machine

/-! SUPPORT. `STEP` from a stopped voice, across a transwave crossing, and along a stretch without a crossing
(40_step_loop.md R101, R108, R112, R116). -/

namespace Sys2Proof.Machine

open Claims

theorem busy_eq_false_of_stop_bit {s : State} (h : s.stop0 = true ∨ s.stop1 = true) : s.busy = false := by
  rcases h with h | h <;> simp [State.busy, h]

/-- A running `STEP` that does not cross writes the position and the answer alone (R116). -/
theorem advance_of_not_crosses_eq {s : State} (hwf : s.cfg.WF) (hr : Running s) (hc : ¬ Crosses s) :
    s.advance = { s with accum := s.tick.accum, out := ⟨none, false⟩ } := by
  rw [advance_of_not_crosses hwf hr hc, tick_eq]
  rfl

theorem policy_of_transwave {s : State} (b c : Data) (hl : s.lpe = false) (hb : s.ble = true)
    (ht : s.cfg.transwave = true) : policy s b c = s.convert.wrap b c := by
  simp [policy, hl, hb, ht]

/-- A crossing with `ble` alone on a transwave-capable variant wraps once and ends the looping (R108, R112). -/
theorem advance_of_crosses_transwave {s : State} (hwf : s.cfg.WF) (hr : Running s) (hc : Crosses s) (hl : s.lpe = false)
    (hb : s.ble = true) (ht : s.cfg.transwave = true) : s.advance =
    { s with accum := (s.tick.latchIrq.wrap (passedBoundary s) (oppositeBoundary s)).accum, lpe := false, ble := false,
             lei := true, irq := s.irq || s.irqe, out := ⟨none, true⟩ } := by
  rw [advance_of_crosses hwf hr hc, tick_loopExec_eq_policy,
    policy_of_transwave _ _ (by simpa) (by simpa) (by simpa), tick_latchIrq_eq]
  rfl

theorem ticked_forward {s : State} (h : s.dir = false) :
    ticked s = ((s.accum.toNat : Int) + s.fc.toNat) % 2 ^ s.cfg.accBits := by simp [ticked, h]

/-- A forward `tick` that does not leave the space adds exactly `fc`. -/
theorem ticked_forward_of_lt {s : State} (hd : s.dir = false) (h : s.accum.toNat + s.fc.toNat < 2 ^ s.cfg.accBits) :
    ticked s = s.accum.toNat + s.fc.toNat := by
  rw [ticked_forward hd]
  exact Int.emod_eq_of_lt (by positivity) (by exact_mod_cast h)

theorem ticked_reverse {s : State} (h : s.dir = true) :
    ticked s = ((s.accum.toNat : Int) - s.fc.toNat) % 2 ^ s.cfg.accBits := by simp [ticked, h]

/-- A forward voice crosses by a strict comparison with `end` (R104). -/
theorem crosses_forward_iff {s : State} (hd : s.dir = false) :
    Crosses s ↔ s.lei = false ∧ (s.end_.toNat : Int) < ticked s := by simp [Crosses, hd]

/-! ### Steps that stay within the loop -/

/-- What a `tick` adds to the position, in the direction of travel (R102, R103). -/
def signedStep (s : State) : Int := if s.dir then -s.fc.toNat else s.fc.toNat

theorem signedStep_forward {s : State} (h : s.dir = false) : signedStep s = s.fc.toNat := by simp [signedStep, h]

theorem signedStep_reverse {s : State} (h : s.dir = true) : signedStep s = -s.fc.toNat := by simp [signedStep, h]

/-- The position `x` lies in the space and not beyond the boundary of the direction of travel. -/
def WithinBoundary (s : State) (x : Int) : Prop :=
  0 ≤ x ∧ x < 2 ^ s.cfg.accBits ∧ (s.dir = false → x ≤ s.end_.toNat) ∧ (s.dir = true → s.start.toNat ≤ x)

/-- Going forward it is enough not to lie above `end`. -/
theorem withinBoundary_forward {s : State} {x : Nat} (hd : s.dir = false) (hx : x ≤ s.end_.toNat)
    (hend : s.end_.toNat < 2 ^ s.cfg.accBits) : WithinBoundary s x :=
  ⟨by positivity, by exact_mod_cast hx.trans_lt hend, fun _ => by exact_mod_cast hx,
    fun hd' => Bool.noConfusion (hd.symm.trans hd')⟩

/-- In reverse it is enough to lie in the space and not below `start`. -/
theorem withinBoundary_reverse {s : State} {x : Int} (hd : s.dir = true) (hx : (s.start.toNat : Int) ≤ x)
    (hlt : x < 2 ^ s.cfg.accBits) : WithinBoundary s x :=
  ⟨hx.trans' (by positivity), hlt, fun hd' => Bool.noConfusion (hd'.symm.trans hd), fun _ => hx⟩

theorem ticked_eq_emod (s : State) : ticked s = (s.accum.toNat + signedStep s) % 2 ^ s.cfg.accBits := by
  cases h : s.dir
  · rw [ticked_forward h, signedStep_forward h]
  · rw [ticked_reverse h, signedStep_reverse h]
    rfl

/-- A `STEP` to a position within the boundary moves there and does not cross. -/
theorem advance_of_withinBoundary {s : State} (hwf : s.cfg.WF) (hr : Running s)
    (h : WithinBoundary s (s.accum.toNat + signedStep s)) :
    (s.advance.accum.toNat : Int) = s.accum.toNat + signedStep s ∧
      s.advance = { s with accum := s.advance.accum, out := ⟨none, false⟩ } := by
  obtain ⟨hnonneg, hlt, hend, hstart⟩ := h
  have hticked : ticked s = s.accum.toNat + signedStep s := by
    rw [ticked_eq_emod, Int.emod_eq_of_lt hnonneg hlt]
  have hc : ¬ Crosses s := by
    rintro ⟨-, ⟨hd, hx⟩ | ⟨hd, hx⟩⟩
    · exact absurd (hstart hd) (not_le.mpr (hticked ▸ hx))
    · exact absurd (hend hd) (not_le.mpr (hticked ▸ hx))
  rw [advance_of_not_crosses_eq hwf hr hc]
  exact ⟨(tick_accum_cast hwf).trans hticked, rfl⟩

/-- `k` `STEP`s whose positions all lie within the boundary move `k` times as far and change nothing else. -/
theorem iterate_advance_of_withinBoundary {s : State} (hwf : s.cfg.WF) (hr : Running s) (k : Nat)
    (h : ∀ j : Nat, 1 ≤ j → j ≤ k → WithinBoundary s (s.accum.toNat + j * signedStep s)) :
    ((State.advance^[k] s).accum.toNat : Int) = s.accum.toNat + k * signedStep s ∧
      State.advance^[k] s = { s with accum := (State.advance^[k] s).accum, out := (State.advance^[k] s).out } := by
  induction k with
  | zero => exact ⟨by simp, rfl⟩
  | succ k ih =>
    obtain ⟨hpos, hframe⟩ := ih fun j hj hjk => h j hj (by omega)
    rw [Function.iterate_succ_apply']
    generalize State.advance^[k] s = t at hpos hframe
    have hstep : signedStep t = signedStep s := by rw [hframe]; rfl
    have hnext : (t.accum.toNat : Int) + signedStep t = s.accum.toNat + (k + 1 : Nat) * signedStep s := by
      rw [hpos, hstep]
      push_cast
      ring
    have hwithin : WithinBoundary t (t.accum.toNat + signedStep t) := by
      rw [hnext, hframe]
      exact h (k + 1) (by omega) le_rfl
    obtain ⟨hpos', hframe'⟩ := advance_of_withinBoundary (by rw [hframe]; exact hwf) (by rw [hframe]; exact hr) hwithin
    refine ⟨hpos'.trans hnext, ?_⟩
    rw [hframe', hframe]

end Sys2Proof.Machine

/-! PROOFS. The statements about a single `STEP` (40_step_loop.md R101, R108 to R119, 70_reset_and_hazards.md R221). -/

namespace Sys2Proof.Machine

open Claims

/-- Settles O12: with a stop bit set the block is not busy. -/
theorem stoppedStepChangesNothing : Obligations.StoppedStepChangesNothing := fun s h =>
  exec_next_iff.mpr (advance_of_stopped s (busy_eq_false_of_stop_bit h)).symm

/-- Settles O15: without a crossing a running `STEP` is `tick` alone, which writes `accum` alone. -/
theorem stepWithoutCrossing : Obligations.StepWithoutCrossing := by
  intro s hwf hr hc
  exact ⟨_, exec_next_iff.mpr (advance_of_not_crosses_eq hwf hr hc).symm, tick_accum_cast hwf, rfl⟩

/-- Settles O19: the transwave branch, with `start` as the boundary passed. -/
theorem reverseCrossingConvertsTranswave : Obligations.ReverseCrossingConvertsTranswave := by
  intro s hwf hr hd hc hl hb ht
  have hadv := advance_of_crosses_transwave hwf hr hc hl hb ht
  rw [passedBoundary_reverse hd, oppositeBoundary_reverse hd] at hadv
  exact ⟨_, exec_next_iff.mpr hadv.symm, wrap_ticked_cast hwf s.start s.end_, rfl⟩

/-- Settles O21: the bidirectional branch, with `end` as the boundary passed. -/
theorem forwardCrossingTurnsReverse : Obligations.ForwardCrossingTurnsReverse := by
  intro s hwf hr hd hc hl hb
  have hadv := advance_of_crosses_bidirectional hwf hr hc hl hb
  rw [passedBoundary_forward hd, hd] at hadv
  exact ⟨_, exec_next_iff.mpr hadv.symm, reflect_ticked_cast hwf s.end_, rfl⟩

/-- Settles O22: the plain branch, with `end` as the boundary passed; the shift is the same sum regrouped. -/
theorem forwardCrossingWraps : Obligations.ForwardCrossingWraps := by
  intro s hwf hr hd hc hl hb
  have hadv := advance_of_crosses_plainLoop hwf hr hc hl hb
  rw [passedBoundary_forward hd, oppositeBoundary_forward hd] at hadv
  have hpos := wrap_ticked_cast hwf s.end_ s.start
  have hregroup : (s.start.toNat : Int) - (s.end_.toNat - ticked s) = ticked s - (s.end_.toNat - s.start.toNat) := by
    ring
  exact ⟨_, exec_next_iff.mpr hadv.symm, hpos, hregroup ▸ hpos, rfl⟩

/-- Settles O23: the transwave branch, with `end` as the boundary passed. -/
theorem forwardCrossingConvertsTranswave : Obligations.ForwardCrossingConvertsTranswave := by
  intro s hwf hr hd hc hl hb ht
  have hadv := advance_of_crosses_transwave hwf hr hc hl hb ht
  rw [passedBoundary_forward hd, oppositeBoundary_forward hd] at hadv
  exact ⟨_, exec_next_iff.mpr hadv.symm, wrap_ticked_cast hwf s.end_ s.start, rfl⟩

/-- Settles O24: the last branch writes `stop0` only, so the position is the one that crossed. -/
theorem forwardCrossingStops : Obligations.ForwardCrossingStops := by
  intro s hwf hr hd hc hl hb
  have hadv := advance_of_crosses_noPolicy hwf hr hc hl hb
  have hpos := tick_accum_cast hwf
  have habove : s.end_.toNat < s.tick.accum.toNat := by
    exact_mod_cast hpos ▸ ((crosses_forward_iff hd).mp hc).2
  exact ⟨_, exec_next_iff.mpr hadv.symm, hpos, habove, rfl, rfl⟩

/-- Settles O25: the frame of `STEP`. -/
theorem stepNeverWritesHostRegisters : Obligations.StepNeverWritesHostRegisters := fun s =>
  ⟨s.advance, exec_next_iff.mpr rfl, advance_frame s⟩

/-- Settles O26: a `tick` by 0 leaves the position, which then lies within the boundary or beyond it. -/
theorem zeroStepHoldsOrCrosses : Obligations.ZeroStepHoldsOrCrosses := by
  intro s hs hr hfc
  obtain ⟨hwf, haccum, -⟩ := hs
  have hticked : ticked s = s.accum.toNat := by
    rw [ticked_eq_emod, signedStep, hfc]
    simpa using Int.emod_eq_of_lt (by positivity) (by exact_mod_cast haccum)
  have hpos : s.tick.accum = s.accum :=
    BitVec.eq_of_toNat_eq (by exact_mod_cast (tick_accum_cast hwf).trans hticked)
  refine ⟨fun hend hstart => exec_next_iff.mpr ?_, fun hlei hbeyond => ⟨_, exec_next_iff.mpr rfl, ?_⟩⟩
  · have hc : ¬ Crosses s := by
      rintro ⟨-, ⟨hd, hx⟩ | ⟨hd, hx⟩⟩
      · have := hstart hd
        omega
      · have := hend hd
        omega
    exact ((advance_of_not_crosses_eq hwf hr hc).trans (by rw [hpos])).symm
  · have hc : Crosses s := by
      refine ⟨hlei, hbeyond.symm.imp ?_ ?_⟩ <;> rintro ⟨hd, hx⟩ <;> exact ⟨hd, by omega⟩
    exact congrArg (fun t => t.out.xing) (advance_of_crosses hwf hr hc)

/-- Settles O27: no position lies below 0. -/
theorem reverseVoiceFromZeroNeverCrosses : Obligations.ReverseVoiceFromZeroNeverCrosses := by
  intro s hd hstart
  have hcross : s.tick.crossed = false := by simp [State.crossed, hd, hstart, BitVec.ult]
  refine ⟨s.advance, exec_next_iff.mpr rfl, ?_⟩
  rcases advance_cases s with ⟨_, e⟩ | ⟨_, _, e⟩ | ⟨_, hc, _⟩
  · rw [e]; exact ⟨rfl, hd, rfl, rfl⟩
  · rw [e]; exact ⟨rfl, s.tick_dir.trans hd, s.tick_irq, s.tick_stop0⟩
  · cases hcross.symm.trans hc

/-- Settles O28: the wrap of a plain loop with `end` at or below `start`, the new position still inside the space. -/
theorem degenerateForwardLoops : Obligations.DegenerateForwardLoops := by
  intro s hs hr hd hlei hl hb hpast hse hroom
  have hwf := hs.1
  have hroom' : (s.accum.toNat : Int) + s.fc.toNat + (s.start.toNat - s.end_.toNat) < 2 ^ s.cfg.accBits := by
    have : ((s.accum.toNat + s.fc.toNat + (s.start.toNat - s.end_.toNat) : Nat) : Int) < 2 ^ s.cfg.accBits := by
      exact_mod_cast hroom
    push_cast [hse] at this
    exact this
  have hticked : ticked s = s.accum.toNat + s.fc.toNat := ticked_forward_of_lt hd (by omega)
  have hc : Crosses s := (crosses_forward_iff hd).mpr ⟨hlei, by omega⟩
  obtain ⟨t, ht, -, hpos, hframe⟩ := forwardCrossingWraps s hwf hr hd hc hl hb
  rw [hticked, Int.emod_eq_of_lt (by omega) (by omega)] at hpos
  exact ⟨t, ht, by rw [hframe], by omega, by omega⟩

/-- Settles O50: with every register 0 the `tick` stays at 0, which is not above `end`. -/
theorem resetVoiceIsBusyAndStill : Obligations.ResetVoiceIsBusyAndStill := by
  intro c
  have htick : (State.resetWith c).tick = State.resetWith c := by
    rw [tick_forward _ rfl]
    simp [State.setAccum, State.resetWith, maskN]
  refine ⟨rfl, ?_, exec_next_iff.mpr ?_⟩
  · simp [State.interp, State.resetWith, asr]
  · rw [after, advance_of_not_crossed _ rfl (by rw [htick]; rfl), htick]
    rfl

end Sys2Proof.Machine

/-! SUPPORT. Runs of `STEP`s in a plain forward loop and in a bidirectional loop (40_step_loop.md R122). -/

namespace Sys2Proof.Machine

open Claims

/-! ### The plain forward loop -/

/-- A voice running forward in a plain loop at least one step long, no `tick` of which leaves the space (R122 (b)). -/
structure PlainForwardLoop (s : State) : Prop where
  wf : s.cfg.WF
  running : Running s
  forward : s.dir = false
  checked : s.lei = false
  looping : s.lpe = true
  oneWay : s.ble = false
  ordered : s.start.toNat < s.end_.toNat
  short : s.fc.toNat ≤ s.end_.toNat - s.start.toNat
  room : s.end_.toNat + s.fc.toNat < 2 ^ s.cfg.accBits

/-- One `STEP` of a plain forward loop moves by `fc`, or by `fc` less the loop length where that passes `end`. -/
theorem advance_plainForwardLoop {s : State} (h : PlainForwardLoop s) (ha : s.accum.toNat ≤ s.end_.toNat) :
    s.advance = { s with accum := s.advance.accum, irq := s.advance.irq, out := s.advance.out } ∧
      s.advance.accum.toNat ≤ s.end_.toNat ∧
      s.advance.accum.toNat ≡ s.accum.toNat + s.fc.toNat [MOD s.end_.toNat - s.start.toNat] := by
  obtain ⟨hwf, hr, hd, hlei, hl, hb, hse, hshort, hroom⟩ := h
  have hroom' : (s.end_.toNat : Int) + s.fc.toNat < 2 ^ s.cfg.accBits := by exact_mod_cast hroom
  have hticked : ticked s = s.accum.toNat + s.fc.toNat := ticked_forward_of_lt hd (by omega)
  by_cases hpast : s.end_.toNat < s.accum.toNat + s.fc.toNat
  · have hc : Crosses s := (crosses_forward_iff hd).mpr ⟨hlei, by omega⟩
    obtain ⟨t, ht, -, hpos, hframe⟩ := forwardCrossingWraps s hwf hr hd hc hl hb
    obtain rfl : t = s.advance := exec_next_iff.mp ht
    rw [hticked, Int.emod_eq_of_lt (by omega) (by omega)] at hpos
    refine ⟨by rw [hframe], by omega, ?_⟩
    have hsum : s.accum.toNat + s.fc.toNat = s.advance.accum.toNat + (s.end_.toNat - s.start.toNat) := by omega
    rw [hsum]
    exact (Nat.add_mod_right _ _).symm
  · have hc : ¬ Crosses s := by
      rw [crosses_forward_iff hd]
      omega
    obtain ⟨t, ht, hpos, hframe⟩ := stepWithoutCrossing s hwf hr hc
    obtain rfl : t = s.advance := exec_next_iff.mp ht
    have hsum : s.advance.accum.toNat = s.accum.toNat + s.fc.toNat := by omega
    exact ⟨by rw [hframe], by omega, congrArg (· % _) hsum⟩

/-- After any number of `STEP`s a plain forward loop is as far along as their sum, modulo the loop length. -/
theorem iterate_plainForwardLoop {s : State} (h : PlainForwardLoop s) (ha : s.accum.toNat ≤ s.end_.toNat) (n : Nat) :
    State.advance^[n] s = { s with accum := (State.advance^[n] s).accum, irq := (State.advance^[n] s).irq,
                                   out := (State.advance^[n] s).out } ∧
      (State.advance^[n] s).accum.toNat ≤ s.end_.toNat ∧
      (State.advance^[n] s).accum.toNat ≡ s.accum.toNat + n * s.fc.toNat [MOD s.end_.toNat - s.start.toNat] := by
  induction n with
  | zero => exact ⟨rfl, ha, by simp [Nat.ModEq]⟩
  | succ n ih =>
    rw [Function.iterate_succ_apply']
    generalize State.advance^[n] s = t at ih
    obtain ⟨hframe, hle, hmod⟩ := ih
    have hloop : PlainForwardLoop t := by
      obtain ⟨hwf, hr, hd, hlei, hl, hb, hse, hshort, hroom⟩ := h
      rw [hframe]
      exact ⟨hwf, hr, hd, hlei, hl, hb, hse, hshort, hroom⟩
    have hfc : t.fc = s.fc := by rw [hframe]
    have hstart : t.start = s.start := by rw [hframe]
    have hend : t.end_ = s.end_ := by rw [hframe]
    obtain ⟨hframe', hle', hmod'⟩ := advance_plainForwardLoop hloop (by rw [hend]; exact hle)
    rw [hfc, hstart, hend] at hmod'
    rw [hend] at hle'
    refine ⟨by rw [hframe', hframe], hle', hmod'.trans ?_⟩
    rw [Nat.succ_mul, ← Nat.add_assoc]
    exact hmod.add_right _

/-! ### The bidirectional loop -/

/-- A forward pass of `n` `STEP`s in a bidirectional loop, the last of which is the first to pass `end` (R122 (c)). -/
structure ForwardPass (n : Nat) (s : State) : Prop where
  wf : s.cfg.WF
  running : Running s
  forward : s.dir = false
  checked : s.lei = false
  looping : s.lpe = true
  bothWays : s.ble = true
  nonempty : 0 < n
  before : s.accum.toNat + (n - 1) * s.fc.toNat ≤ s.end_.toNat
  past : s.end_.toNat < s.accum.toNat + n * s.fc.toNat
  room : s.accum.toNat + n * s.fc.toNat < 2 ^ s.cfg.accBits
  endInSpace : s.end_.toNat < 2 ^ s.cfg.accBits
  short : s.start.toNat + s.fc.toNat ≤ s.end_.toNat

/-- A forward `STEP` past `end` in a bidirectional loop lands as far below `end` as its `tick` is above it (R110). -/
theorem advance_turns_at_end {s : State} (h : ForwardPass 1 s) :
    (s.advance.accum.toNat : Int) = s.end_.toNat - (s.accum.toNat + s.fc.toNat - s.end_.toNat) ∧
      s.advance = { s with accum := s.advance.accum, dir := true, irq := s.advance.irq, out := s.advance.out } := by
  obtain ⟨hwf, hr, hd, hlei, hl, hb, -, hbefore, hpast, hroom, hend, hshort⟩ := h
  have hticked : ticked s = s.accum.toNat + s.fc.toNat := ticked_forward_of_lt hd (by omega)
  zify at hroom hend
  have hc : Crosses s := (crosses_forward_iff hd).mpr ⟨hlei, by omega⟩
  obtain ⟨t, ht, hpos, hframe⟩ := forwardCrossingTurnsReverse s hwf hr hd hc hl hb
  obtain rfl : t = s.advance := exec_next_iff.mp ht
  rw [hticked, Int.emod_eq_of_lt (by omega) (by omega)] at hpos
  exact ⟨by omega, by rw [hframe]⟩

/-- The forward pass ends as far below `end` as its last `tick` is above it, turned to reverse. -/
theorem iterate_forwardPass {n : Nat} {s : State} (h : ForwardPass n s) :
    ((State.advance^[n] s).accum.toNat : Int) = s.end_.toNat - (s.accum.toNat + n * s.fc.toNat - s.end_.toNat) ∧
      State.advance^[n] s = { s with accum := (State.advance^[n] s).accum, dir := true, irq := (State.advance^[n] s).irq,
                                     out := (State.advance^[n] s).out } := by
  obtain ⟨hwf, hr, hd, hlei, hl, hb, hn, hbefore, hpast, hroom, hend, hshort⟩ := h
  obtain ⟨k, rfl⟩ : ∃ k, n = k + 1 := ⟨n - 1, by omega⟩
  rw [Nat.add_sub_cancel] at hbefore
  rw [Nat.succ_mul] at hpast hroom
  have hstretch : ∀ j : Nat, 1 ≤ j → j ≤ k → WithinBoundary s (s.accum.toNat + j * signedStep s) := by
    intro j _ hj
    have hle : j * s.fc.toNat ≤ k * s.fc.toNat := Nat.mul_le_mul_right _ hj
    have hbelow : s.accum.toNat + j * s.fc.toNat ≤ s.end_.toNat := by omega
    rw [signedStep_forward hd]
    exact_mod_cast withinBoundary_forward hd hbelow hend
  obtain ⟨hpos, hframe⟩ := iterate_advance_of_withinBoundary hwf hr k hstretch
  rw [Function.iterate_succ_apply']
  generalize State.advance^[k] s = t at hpos hframe
  rw [signedStep_forward hd] at hpos
  have hpos' : t.accum.toNat = s.accum.toNat + k * s.fc.toNat := by exact_mod_cast hpos
  have hturn : ForwardPass 1 t := by
    rw [hframe]
    refine ⟨hwf, hr, hd, hlei, hl, hb, one_pos, ?_, ?_, ?_, hend, hshort⟩ <;> dsimp only <;> omega
  obtain ⟨hback, hframe'⟩ := advance_turns_at_end hturn
  refine ⟨?_, by rw [hframe', hframe]⟩
  have hfc : t.fc = s.fc := by rw [hframe]
  have hend' : t.end_ = s.end_ := by rw [hframe]
  rw [hback, hfc, hend', hpos']
  push_cast
  ring

/-- A forward pass and then `m` `STEP`s in reverse that end at or above `start`. -/
theorem iterate_forwardPass_then_reverse {n m : Nat} {s : State} (h : ForwardPass n s)
    (hback : s.start.toNat + m * s.fc.toNat + (s.accum.toNat + n * s.fc.toNat) ≤ 2 * s.end_.toNat) :
    (State.advance^[m + n] s).accum.toNat + m * s.fc.toNat + (s.accum.toNat + n * s.fc.toNat) = 2 * s.end_.toNat ∧
      (State.advance^[m + n] s).dir = true := by
  obtain ⟨hpos, hframe⟩ := iterate_forwardPass h
  obtain ⟨hwf, hr, -, -, -, -, -, -, hpast, -, hend, -⟩ := h
  rw [Function.iterate_add_apply]
  generalize State.advance^[n] s = t at hpos hframe
  have hd : t.dir = true := by rw [hframe]
  have hfc : t.fc = s.fc := by rw [hframe]
  have hstretch : ∀ j : Nat, 1 ≤ j → j ≤ m → WithinBoundary t (t.accum.toNat + j * signedStep t) := by
    intro j _ hj
    have hle : (j : Int) * s.fc.toNat ≤ m * s.fc.toNat := by exact_mod_cast Nat.mul_le_mul_right _ hj
    have hnonneg : (0 : Int) ≤ j * s.fc.toNat := by positivity
    zify at hback hpast hend
    rw [signedStep_reverse hd, hfc, mul_neg]
    refine withinBoundary_reverse hd ?_ ?_
    · rw [hframe]
      dsimp only
      omega
    · rw [hframe]
      dsimp only
      omega
  obtain ⟨hpos', hframe'⟩ :=
    iterate_advance_of_withinBoundary (by rw [hframe]; exact hwf) (by rw [hframe]; exact hr) m hstretch
  refine ⟨?_, by rw [hframe']; exact hd⟩
  zify
  rw [hpos', hpos, signedStep_reverse hd, hfc]
  ring

end Sys2Proof.Machine

/-! PROOFS. The loop statements over runs of `STEP`s (40_step_loop.md R122). -/

namespace Sys2Proof.Machine

open Claims

/-- Settles O29: the run iterates `STEP`, each of which keeps the loop and moves by `fc` modulo its length. -/
theorem forwardLoopIsPeriodic : Obligations.ForwardLoopIsPeriodic := by
  intro n s hs hr hd hlei hl hb hse ha hshort hroom hport
  obtain ⟨hframe, hle, hmod⟩ := iterate_plainForwardLoop ⟨hs.1, hr, hd, hlei, hl, hb, hse, hshort, hroom⟩ ha n
  refine ⟨_, runs_of_port_steps hport, hle, ?_, hmod⟩
  rw [hframe]
  exact hr

/-- Settles O30: the reverse pass retraces the distance by which the forward pass was reflected. -/
theorem bidirectionalPassReturns : Obligations.BidirectionalPassReturns := by
  intro n s hs hr hd hlei hl hb hn hbefore hpast hroom hstart hshort
  obtain ⟨hwf, -, -, -, hend, -⟩ := hs
  have hpass : ForwardPass n s := ⟨hwf, hr, hd, hlei, hl, hb, hn, hbefore, hpast, hroom, hend, hshort⟩
  obtain ⟨k, rfl⟩ : ∃ k, n = k + 1 := ⟨n - 1, by omega⟩
  rw [Nat.add_sub_cancel] at hbefore
  have hsucc : (k + 1) * s.fc.toNat = k * s.fc.toNat + s.fc.toNat := Nat.succ_mul _ _
  refine ⟨fun hlong hport => ?_, fun hn2 hshortWay hport => ?_⟩
  · rw [show 2 * (k + 1) - 1 = k + (k + 1) by omega] at hport ⊢
    obtain ⟨hpos, hdir⟩ := iterate_forwardPass_then_reverse (m := k) hpass (by omega)
    refine ⟨_, runs_of_port_steps hport, hdir, ?_, ?_⟩ <;> dsimp only <;> omega
  · obtain ⟨j, rfl⟩ : ∃ j, k = j + 1 := ⟨k - 1, by omega⟩
    have hsucc' : (j + 1) * s.fc.toNat = j * s.fc.toNat + s.fc.toNat := Nat.succ_mul _ _
    rw [show 2 * (j + 1 + 1) - 2 = j + (j + 1 + 1) by omega] at hport ⊢
    obtain ⟨hpos, hdir⟩ := iterate_forwardPass_then_reverse (m := j) hpass (by omega)
    refine ⟨_, runs_of_port_steps hport, hdir, ?_, ?_⟩ <;> dsimp only <;> omega

end Sys2Proof.Machine

/-! SUPPORT. The assembler: the words of its lines as sums of their fields, what they decode to, and the lines it refuses
(30_encoding.md R79, R80). -/

namespace Sys2Proof

open Claims Machine

theorem assemble_of_wf {a : Asm} (h : a.wf = true) : a.assemble = some a.words := if_pos h

theorem assemble_of_not_wf {a : Asm} (h : a.wf = false) : a.assemble = none := if_neg (by simp [h])

/-- The assembled word is the sum of R79 for operands that fit their fields. -/
theorem asmWord_eq_lineWord {op : BitVec 4} {o tap d : Int} (ho : o = op.toNat) (ht : Asm.TapInRange tap)
    (hd : Asm.DataInRange d) : asmWord op tap d = lineWord o tap d := by
  obtain ⟨tapN, rfl⟩ : ∃ k : Nat, tap = k := ⟨tap.toNat, by rcases ht with rfl | rfl <;> rfl⟩
  obtain ⟨dN, rfl⟩ : ∃ k : Nat, d = k := ⟨d.toNat, (Int.toNat_of_nonneg hd.1).symm⟩
  have htap : tapN < 2 := by rcases ht with h | h <;> omega
  have hdata : dN < 2 ^ 32 := by have := hd.2; omega
  rw [asmWord_eq_ofNat op tapN dN htap hdata, lineWord, ho, ← BitVec.ofInt_natCast]
  push_cast
  rfl

theorem decode_asmWord_tap0 (op : BitVec 4) (d : Int) : decode (asmWord op 0 d) = instrOf op .tap0 (BitVec.ofInt 32 d) :=
  decode_packWord op 0#3 .tap0 _

theorem decode_asmWord_tap1 (op : BitVec 4) (d : Int) : decode (asmWord op 1 d) = instrOf op .tap1 (BitVec.ofInt 32 d) :=
  decode_packWord op 0#3 .tap1 _

/-- The `d` of an `LDSMP` value fits 16 bits. -/
theorem sampleD_inRange {v : Int} (h : Asm.SampleInRange v) : Asm.DataInRange (sampleD v) := by
  obtain ⟨hlo, hhi⟩ := h
  unfold sampleD
  split <;> constructor <;> omega

/-- The low 16 bits of the `d` of an `LDSMP` value are the value's own pattern. -/
theorem extractLsb'_sampleD (v : Int) : (BitVec.ofInt 32 (sampleD v)).extractLsb' 0 16 = BitVec.ofInt 16 v := by
  apply BitVec.eq_of_toNat_eq
  rw [BitVec.extractLsb'_toNat, BitVec.toNat_ofInt, BitVec.toNat_ofInt, Nat.shiftRight_zero]
  unfold sampleD
  split <;> omega

theorem extractLsb'_ofInt_cr (v : Int) : (BitVec.ofInt 32 v).extractLsb' 0 8 = BitVec.ofInt 8 v := by
  apply BitVec.eq_of_toNat_eq
  rw [BitVec.extractLsb'_toNat, BitVec.toNat_ofInt, BitVec.toNat_ofInt, Nat.shiftRight_zero]
  omega

/-- A line of one word in its form of R79, decoded by the opcode map. -/
theorem assemblesTo_of_words {a : Asm} {op : BitVec 4} {o tap d : Int} {i : Instr} (hwf : a.wf = true)
    (hwords : a.words = [asmWord op tap d]) (ho : o = op.toNat) (ht : Asm.TapInRange tap) (hd : Asm.DataInRange d)
    (hi : decode (asmWord op tap d) = i) : AssemblesTo a (lineWord o tap d) i := by
  rw [← asmWord_eq_lineWord ho ht hd]
  exact ⟨(assemble_of_wf hwf).trans (congrArg some hwords), hi⟩

theorem ldsmp_assemblesTo {v : Int} (h : Asm.SampleInRange v) :
    AssemblesTo (.ldsmp 0 v) (lineWord 0x2 0 (sampleField v)) (.ldsmp .tap0 (BitVec.ofInt 16 v)) ∧
    AssemblesTo (.ldsmp 1 v) (lineWord 0x2 1 (sampleField v)) (.ldsmp .tap1 (BitVec.ofInt 16 v)) := by
  have hd := sampleD_inRange h
  rw [← extractLsb'_sampleD v]
  exact ⟨assemblesTo_of_words (by simp [Asm.wf, h]) rfl rfl (.inl rfl) hd (decode_asmWord_tap0 _ _),
    assemblesTo_of_words (by simp [Asm.wf, h]) rfl rfl (.inr rfl) hd (decode_asmWord_tap1 _ _)⟩

theorem write_assemblesTo {v : Int} (h : Asm.DataInRange v) :
    AssemblesTo (.wrfc v) (lineWord 0x4 0 v) (.wrfc (BitVec.ofInt 32 v)) ∧
    AssemblesTo (.wrstart v) (lineWord 0x5 0 v) (.wrstart (BitVec.ofInt 32 v)) ∧
    AssemblesTo (.wrend v) (lineWord 0x6 0 v) (.wrend (BitVec.ofInt 32 v)) ∧
    AssemblesTo (.wracc v) (lineWord 0x7 0 v) (.wracc (BitVec.ofInt 32 v)) ∧
    AssemblesTo (.wrcr v) (lineWord 0x8 0 v) (.wrcr (BitVec.ofInt 8 v)) := by
  have hwf : decide (Asm.DataInRange v) = true := decide_eq_true h
  refine ⟨assemblesTo_of_words hwf rfl rfl (.inl rfl) h (decode_asmWord_tap0 _ _),
    assemblesTo_of_words hwf rfl rfl (.inl rfl) h (decode_asmWord_tap0 _ _),
    assemblesTo_of_words hwf rfl rfl (.inl rfl) h (decode_asmWord_tap0 _ _),
    assemblesTo_of_words hwf rfl rfl (.inl rfl) h (decode_asmWord_tap0 _ _),
    assemblesTo_of_words hwf rfl rfl (.inl rfl) h ?_⟩
  rw [← extractLsb'_ofInt_cr]
  exact decode_asmWord_tap0 _ _

/-! ### `KEYON` and `KEYOFF` -/

theorem getElem_ofNat_cr (cr : Nat) {k : Nat} (h : k < 8) : (BitVec.ofNat 8 cr)[k] = cr.testBit k := by
  rw [← BitVec.getLsbD_eq_getElem, BitVec.getLsbD_ofNat, decide_eq_true h, Bool.true_and]

theorem loadCr_keyOn (cr : Nat) (s : State) : s.loadCr (BitVec.ofNat 8 cr &&& 0xFC#8) =
    { s with stop0 := false, stop1 := false, lei := cr.testBit 2, lpe := cr.testBit 3, ble := cr.testBit 4,
             irqe := cr.testBit 5, dir := cr.testBit 6, irq := cr.testBit 7 } := by
  simp [State.loadCr, getElem_ofNat_cr cr]

theorem loadCr_keyOff (cr : Nat) (s : State) : s.loadCr (BitVec.ofNat 8 cr ||| 0x02#8) =
    { s with stop0 := cr.testBit 0, stop1 := true, lei := cr.testBit 2, lpe := cr.testBit 3, ble := cr.testBit 4,
             irqe := cr.testBit 5, dir := cr.testBit 6, irq := cr.testBit 7 } := by
  simp [State.loadCr, getElem_ofNat_cr cr]

/-- `KEYON` clears both stop bits and loads the other control bits. -/
theorem exec_keyOn (cr : Nat) (s : State) : exec (decode (asmWord 0x8 0 (keyOnCr cr))) s = .next
    { s with stop0 := false, stop1 := false, lei := cr.testBit 2, lpe := cr.testBit 3, ble := cr.testBit 4,
             irqe := cr.testBit 5, dir := cr.testBit 6, irq := cr.testBit 7, out := ⟨none, false⟩ } := by
  rw [asmWord_keyOn, decode_encode, exec_eq_after, after, loadCr_keyOn]
  rfl

/-- `KEYOFF` sets `stop1` and loads the other control bits. -/
theorem exec_keyOff (cr : Nat) (s : State) : exec (decode (asmWord 0x8 0 (keyOffCr cr))) s = .next
    { s with stop0 := cr.testBit 0, stop1 := true, lei := cr.testBit 2, lpe := cr.testBit 3, ble := cr.testBit 4,
             irqe := cr.testBit 5, dir := cr.testBit 6, irq := cr.testBit 7, out := ⟨none, false⟩ } := by
  rw [asmWord_keyOff, decode_encode, exec_eq_after, after, loadCr_keyOff]
  rfl

theorem keyOnCr_inRange (cr : Nat) : Asm.DataInRange (keyOnCr cr) := by
  have := keyOnCr_lt cr
  rw [keyOnCr, Int.toNat_natCast]
  constructor <;> omega

theorem keyOffCr_inRange (cr : Nat) : Asm.DataInRange (keyOffCr cr) := by
  have := keyOffCr_lt cr
  rw [keyOffCr, Int.toNat_natCast]
  constructor <;> omega

end Sys2Proof

/-! PROOFS. The statements about the assembler (30_encoding.md R79, R80). -/

namespace Sys2Proof

open Claims Machine

/-- Settles O5: each line is its packed word, which is the sum of its fields and decodes by the opcode map. -/
theorem assembledLinesDecode : Obligations.AssembledLinesDecode := by
  refine ⟨by decide, fun v hlo hhi => ldsmp_assemblesTo ⟨hlo, hhi⟩, fun v hlo hhi => write_assemblesTo ⟨hlo, hhi⟩,
    fun v w hv hv' hw hw' => ?_, fun v w hv hv' hw hw' => ?_, fun v w h => ?_, fun tap v h0 h1 => ?_, fun v w h => ?_⟩
  · have hvr : Asm.SampleInRange v := ⟨hv, hv'⟩
    have hwr : Asm.SampleInRange w := ⟨hw, hw'⟩
    have hwf : (Asm.fetch v w).wf = true := Bool.and_eq_true_iff.mpr ⟨decide_eq_true hvr, decide_eq_true hwr⟩
    rw [assemble_of_wf hwf, Asm.words, asmWord_eq_lineWord rfl (.inl rfl) (sampleD_inRange hvr),
      asmWord_eq_lineWord rfl (.inr rfl) (sampleD_inRange hwr)]
    rfl
  · have hvr : Asm.DataInRange v := ⟨hv, hv'⟩
    have hwr : Asm.DataInRange w := ⟨hw, hw'⟩
    have hwf : (Asm.setloop v w).wf = true := Bool.and_eq_true_iff.mpr ⟨decide_eq_true hvr, decide_eq_true hwr⟩
    rw [assemble_of_wf hwf, Asm.words, asmWord_eq_lineWord rfl (.inl rfl) hvr, asmWord_eq_lineWord rfl (.inl rfl) hwr]
    rfl
  · have hv : ¬ Asm.SampleInRange v := fun ⟨hlo, hhi⟩ => by omega
    refine ⟨?_, ?_, ?_⟩ <;>
      exact assemble_of_not_wf (by simp only [Asm.wf, hv, decide_false, Bool.and_false, Bool.false_and])
  · have htap : ¬ Asm.TapInRange tap := not_or.mpr ⟨h0, h1⟩
    refine ⟨?_, ?_⟩ <;> exact assemble_of_not_wf (by simp only [Asm.wf, htap, decide_false, Bool.false_and])
  · have hv : ¬ Asm.DataInRange v := fun ⟨hlo, hhi⟩ => by omega
    refine ⟨?_, ?_, ?_, ?_, ?_, ?_, ?_⟩ <;>
      exact assemble_of_not_wf (by simp only [Asm.wf, hv, decide_false, Bool.and_false, Bool.false_and])

/-- Settles O6: each is one `WRCR`, whose operand keeps the bits of the low byte other than the stop bits it sets. -/
theorem keyOnStartsAndKeyOffStops : Obligations.KeyOnStartsAndKeyOffStops := by
  refine ⟨fun cr s hcr => ?_, fun cr hcr => ?_⟩
  · have hwf : decide (Asm.DataInRange (cr : Int)) = true := decide_eq_true ⟨by omega, by omega⟩
    exact ⟨⟨_, _, assemble_of_wf hwf, asmWord_eq_lineWord rfl (.inl rfl) (keyOnCr_inRange cr), exec_keyOn cr s, rfl, rfl⟩,
      _, _, assemble_of_wf hwf, asmWord_eq_lineWord rfl (.inl rfl) (keyOffCr_inRange cr), exec_keyOff cr s,
      Bool.and_false _, rfl⟩
  · have hv : ¬ Asm.DataInRange cr := fun ⟨hlo, hhi⟩ => by omega
    exact ⟨assemble_of_not_wf (decide_eq_false hv), assemble_of_not_wf (decide_eq_false hv)⟩

end Sys2Proof

/-! SUPPORT. The interpolation as integer arithmetic (41_sample_path.md R131 to R133). -/

namespace Sys2Proof.Machine

theorem weight_lt (s : State) : s.weight < 512 := field_lt _ _ _

/-- A nonnegative multiple below 512 of a difference `d`, floored by 512, lies between 0 and `d`, the greater end excluded. -/
theorem floor_weighted_bounds {w : Nat} (hw : w < 512) (d : Int) :
    min 0 d ≤ w * d / 512 ∧ w * d / 512 ≤ max 0 d ∧ (0 < d → w * d / 512 < d) := by
  rcases le_total 0 d with hd | hd
  · have hlo : 0 ≤ w * d := by positivity
    have hhi : w * d ≤ 511 * d := mul_le_mul_of_nonneg_right (by omega) hd
    omega
  · have hhi : w * d ≤ 0 := mul_nonpos_of_nonneg_of_nonpos (by omega) hd
    have hlo : 511 * d ≤ w * d := mul_le_mul_of_nonpos_right (by omega) hd
    omega

/-- The interpolated value before it is put in 16 bits (R131). -/
def interpValue (s : State) : Int := s.sample0.toInt + s.weight * (s.sample1.toInt - s.sample0.toInt) / 512

/-- The interpolated value lies between the taps and is not the greater `sample[1]` (R132). -/
theorem interpValue_bounds (s : State) :
    min s.sample0.toInt s.sample1.toInt ≤ interpValue s ∧ interpValue s ≤ max s.sample0.toInt s.sample1.toInt ∧
      (s.sample0.toInt < s.sample1.toInt → interpValue s < s.sample1.toInt) := by
  obtain ⟨hlo, hhi, hlt⟩ := floor_weighted_bounds (weight_lt s) (s.sample1.toInt - s.sample0.toInt)
  unfold interpValue
  omega

/-- Nothing is lost in 16 bits: the value lies between two values of 16 bits (R133). -/
theorem interp_toInt (s : State) : s.interp.toInt = interpValue s := by
  obtain ⟨hlo, hhi, -⟩ := interpValue_bounds s
  have := s.sample0.le_toInt
  have := s.sample1.le_toInt
  have := s.sample0.toInt_lt
  have := s.sample1.toInt_lt
  have hself : (BitVec.ofInt 16 (interpValue s)).toInt = interpValue s :=
    BitVec.toInt_ofInt_eq_self (by decide) (by omega) (by omega)
  exact hself

end Sys2Proof.Machine

/-! PROOFS. The statements about the sample path and the outputs (41_sample_path.md, 10_state.md R40). -/

namespace Sys2Proof.Machine

/-- Settles O32: `LDSMP` writes one tap, whichever it names. -/
theorem ldsmpStoresTheTap : Obligations.LdsmpStoresTheTap := fun _ _ =>
  ⟨exec_next_iff.mpr rfl, exec_next_iff.mpr rfl⟩

/-- Settles O33: the tap, zero-extended. -/
theorem rdsmpAnswersThePattern : Obligations.RdsmpAnswersThePattern := by
  intro tap s
  refine ⟨tapData (s.tap tap), exec_next_iff.mpr rfl, ?_⟩
  rw [tapData_toNat]
  cases tap <;> rfl

/-- Settles O35: the address one ahead is the masked successor of `acc_int`. -/
theorem fetchAddressesAreConsecutive : Obligations.FetchAddressesAreConsecutive := by
  intro s _
  have haddr : s.outputs.addr1 = (s.accInt + 1) % 2 ^ s.cfg.intBits := maskN_natCast _ (s.accInt + 1)
  refine ⟨rfl, fun h => ?_, fun h => ?_⟩
  · rw [haddr, Nat.mod_eq_of_lt h]
  · rw [haddr, h, Nat.mod_self]

/-- Settles O36: the weight is the field of R131, and the value fits 16 bits. -/
theorem interpolationIsExact : Obligations.InterpolationIsExact := interp_toInt

/-- Settles O37: the bounds of the value carry over to the signed 16 bits that hold it. -/
theorem interpolationLiesBetweenTaps : Obligations.InterpolationLiesBetweenTaps := by
  intro s
  obtain ⟨hlo, hhi, hlt⟩ := interpValue_bounds s
  rw [interp_toInt]
  refine ⟨hlo, hhi, fun hw => BitVec.eq_of_toInt_eq ?_, hlt⟩
  rw [interp_toInt, interpValue, hw]
  simp

/-- Settles O38: `busy` by its lemma; `irq_out` is the latch itself. -/
theorem flagOutputs : Obligations.FlagOutputs := fun s => ⟨busy_iff s, rfl⟩

end Sys2Proof.Machine

/-! PROOFS. The statements about single register accesses and control commands (42_register_access.md, 43_control.md). -/

namespace Sys2Proof.Machine

/-- Settles O39: the operand of `WRFC`. -/
theorem wrfcKeepsLowBits : Obligations.WrfcKeepsLowBits := fun d s =>
  ⟨_, exec_next_iff.mpr rfl, fcOperand_toNat s.cfg d, rfl⟩

/-- Settles O40: the operand of a boundary write, in either register. -/
theorem boundaryWritesClearFraction : Obligations.BoundaryWritesClearFraction := fun d s =>
  ⟨⟨_, exec_next_iff.mpr rfl, boundaryOperand_toNat s.cfg d, rfl⟩,
    _, exec_next_iff.mpr rfl, boundaryOperand_toNat s.cfg d, rfl⟩

/-- The masked data of a `WRACC`, in a space of any width. -/
theorem setAccum_accOperand_toNat (s : State) (d : Data) :
    (s.setAccum (accOperand d)).accum.toNat = d.toNat % 2 ^ s.cfg.accBits := by
  have := d.isLt
  have := Nat.mod_le d.toNat (2 ^ s.cfg.accBits)
  rw [State.setAccum_accum, accOperand, maskN_natCast, BitVec.toNat_ofNat]
  omega

/-- Settles O41: the masked write of `accum`. -/
theorem wraccMasksPosition : Obligations.WraccMasksPosition := fun d s =>
  ⟨_, exec_next_iff.mpr rfl, setAccum_accOperand_toNat s d, rfl⟩

/-- Settles O42: each control bit is its bit of the operand. -/
theorem wrcrLoadsAllControlBits : Obligations.WrcrLoadsAllControlBits := fun _ _ => exec_next_iff.mpr rfl

/-- Settles O43: the answer is the register; the state is kept. -/
theorem registerReadsAnswerTheRegister : Obligations.RegisterReadsAnswerTheRegister := fun _ =>
  ⟨exec_next_iff.mpr rfl, exec_next_iff.mpr rfl, exec_next_iff.mpr rfl, exec_next_iff.mpr rfl⟩

/-- Settles O44: the control word by place value. -/
theorem rdcrAnswersTheControlWord : Obligations.RdcrAnswersTheControlWord := fun s =>
  ⟨s.crView, exec_next_iff.mpr rfl, crView_toNat s⟩

/-- Settles O46: a `NOP` replaces the answer only. -/
theorem nopChangesNothing : Obligations.NopChangesNothing := fun _ => exec_next_iff.mpr rfl

/-- Settles O47: `IRQCLR` writes `irq` and the answer. -/
theorem irqclrClearsOnlyIrq : Obligations.IrqclrClearsOnlyIrq := fun _ => exec_next_iff.mpr rfl

theorem crWord_zero : State.crWord false false false false false false false false = 0 := by decide

/-- Settles O48: `RESET` leads to the reset state of the configuration, the commands waiting kept. -/
theorem resetClearsEveryElement : Obligations.ResetClearsEveryElement := fun s =>
  ⟨after .reset s, exec_next_iff.mpr rfl, rfl, rfl, rfl, rfl, rfl, rfl, rfl, rfl, rfl, rfl, rfl, rfl, rfl, rfl,
    crWord_zero, rfl, rfl, rfl⟩

/-- Settles O49: the reset values are the same for every configuration. -/
theorem resetValues : Obligations.ResetValues :=
  ⟨rfl, fun _ => ⟨_, rfl, rfl, rfl, rfl, rfl, rfl, rfl, rfl, rfl, rfl, rfl, rfl, rfl, rfl, rfl, crWord_zero⟩⟩

/-! ### The snapshot -/

/-- Writing back a legal position keeps it. -/
theorem setAccum_accOperand_of_lt {s : State} {d : Data} (h : d.toNat < 2 ^ s.cfg.accBits) :
    s.setAccum (accOperand d) = { s with accum := d } := by
  have hd : (s.setAccum (accOperand d)).accum = d :=
    BitVec.eq_of_toNat_eq (by rw [setAccum_accOperand_toNat, Nat.mod_eq_of_lt h])
  rw [setAccum_eq, hd]

/-- A tap read and written back is the same tap. -/
theorem extractLsb'_tapData (v : Sample) : (tapData v).extractLsb' 0 16 = v := extractLsb'_setWidth_sample v

theorem answer_answer (s : State) (o p : Out) : (s.answer o).answer p = s.answer p := rfl
theorem answer_crView (s : State) (o : Out) : (s.answer o).crView = s.crView := rfl
theorem answer_tap (s : State) (o : Out) (t : Tap) : (s.answer o).tap t = s.tap t := by cases t <;> rfl

/-- The reads of a snapshot answer every element and change none (10_state.md R44). -/
theorem collect_snapshotReads (s : State) : collect snapshotReads s =
    ([some s.accum, some s.fc, some s.start, some s.end_, some s.crView, some (tapData s.sample0), some (tapData s.sample1)],
      s.answer (Out.data (tapData s.sample1))) := by
  simp only [snapshotReads, collect, after, answer_answer, answer_crView, answer_tap, State.answer_fc, State.answer_start,
    State.answer_end_, State.answer_out]
  rfl

/-- The writes that restore a snapshot answer nothing. -/
theorem collect_restoreWrites_answers (a f b e c x y : Data) (u : State) :
    (collect (restoreWrites a f b e c x y) u).1 = [none, none, none, none, none, none, none] := by
  simp only [restoreWrites, collect, after, State.answer_out]
  rfl

/-- The writes of a legal snapshot, in a state of the same configuration, restore every element (10_state.md R44). -/
theorem collect_restoreWrites {s u : State} (hs : s.Inv) (hc : u.cfg = s.cfg) :
    (collect (restoreWrites s.accum s.fc s.start s.end_ s.crView (tapData s.sample0) (tapData s.sample1)) u).2 =
      { s with port := u.port, out := ⟨none, false⟩ } := by
  rw [State.Inv, ← hc] at hs
  obtain ⟨-, haccum, hfc, ⟨hstart, hstartFrac⟩, hend, hendFrac⟩ := hs
  simp only [restoreWrites, extractLsb'_tapData, collect, after, setAccum_accOperand_of_lt haccum, State.answer_cfg,
    State.setFc_cfg, State.setStart_cfg, fcOperand_of_lt hfc, boundaryOperand_of_legal hstart hstartFrac,
    boundaryOperand_of_legal hend hendFrac, loadCr_crView]
  exact State.ext hc rfl rfl rfl rfl rfl rfl rfl rfl rfl rfl rfl rfl rfl rfl rfl rfl

/-- Settles O45: each read answers its register, and the writes put the answers back. -/
theorem snapshotRestoresState : Obligations.SnapshotRestoresState := by
  intro s u hs hc
  refine ⟨s.accum, s.fc, s.start, s.end_, s.crView, tapData s.sample0, tapData s.sample1,
    s.answer (Out.data (tapData s.sample1)), { s with port := u.port, out := ⟨none, false⟩ }, ?_, rfl, ?_, rfl⟩
  · rw [runCollect_eq_collect, collect_snapshotReads]
  · rw [runCollect_eq_collect, ← collect_restoreWrites hs hc, ← collect_restoreWrites_answers]

end Sys2Proof.Machine

/-! SUPPORT. Which commands write `lei`, `irq`, the position, the step, the taps and the loop control bits (10_state.md R42). -/

namespace Sys2Proof.Machine

@[simp] theorem State.advance_fc (s : State) : s.advance.fc = s.fc := by rw [advance_frame]
@[simp] theorem State.advance_sample0 (s : State) : s.advance.sample0 = s.sample0 := by rw [advance_frame]
@[simp] theorem State.advance_sample1 (s : State) : s.advance.sample1 = s.sample1 := by rw [advance_frame]

/-- A policy changes `lei` by the transwave conversion alone (R108, R112). -/
theorem policy_lei_ne {s : State} {b c : Data} (h : (policy s b c).lei ≠ s.lei) :
    s.lpe = false ∧ s.ble = true ∧ s.cfg.transwave = true := by
  rcases policy_cases s b c with ⟨_, _, e⟩ | ⟨_, _, e⟩ | ⟨hl, hb, ht, _⟩ | ⟨_, _, e⟩
  · rw [e] at h; exact absurd rfl h
  · rw [e] at h; exact absurd rfl h
  · exact ⟨hl, hb, ht⟩
  · rw [e] at h; exact absurd rfl h

/-- A `STEP` changes `lei` by the transwave conversion of a crossing alone (R37). -/
theorem advance_lei_ne {s : State} (h : s.advance.lei ≠ s.lei) :
    s.lei = false ∧ s.advance.out.xing = true ∧ s.cfg.transwave = true ∧ s.ble = true ∧ s.lpe = false := by
  rcases advance_cases s with ⟨_, e⟩ | ⟨_, _, e⟩ | ⟨_, hc, e⟩
  · rw [e] at h; exact absurd rfl h
  · rw [e] at h; exact absurd s.tick_lei h
  · rw [e, State.answer_lei, tick_loopExec_eq_policy] at h
    obtain ⟨hl, hb, ht⟩ := policy_lei_ne (s := s.tick.latchIrq) (by simpa using h)
    simp only [State.latchIrq_lpe, State.latchIrq_ble, State.latchIrq_cfg, State.tick_lpe, State.tick_ble,
      State.tick_cfg] at hl hb ht
    exact ⟨by simpa using ((crossed_iff _).mp hc).1, by rw [e]; rfl, ht, hb, hl⟩

/-- A `STEP` changes `irq` by the latch of a crossing alone (R105). -/
theorem advance_irq_ne {s : State} (h : s.advance.irq ≠ s.irq) :
    s.advance.out.xing = true ∧ s.advance.irq = (s.irq || s.irqe) := by
  have hx : s.advance.out.xing = true := by
    rcases advance_cases s with ⟨_, e⟩ | ⟨_, _, e⟩ | ⟨_, _, e⟩
    · rw [e] at h; exact absurd rfl h
    · rw [e] at h; exact absurd s.tick_irq h
    · rw [e]; rfl
  exact ⟨hx, advance_irq_of_xing hx⟩

/-- The commands that write `lei`. -/
theorem writer_of_lei_ne {i : Instr} {s : State} (h : (after i s).lei ≠ s.lei) :
    i = .step ∨ i = .reset ∨ Claims.IsWrcr i := by
  cases i
  case step => exact .inl rfl
  case reset => exact .inr (.inl rfl)
  case wrcr cr => exact .inr (.inr ⟨cr, rfl⟩)
  case ldsmp t v => exact absurd (s.setTap_lei t v) h
  all_goals exact absurd rfl h

/-- The commands that write `irq`. -/
theorem writer_of_irq_ne {i : Instr} {s : State} (h : (after i s).irq ≠ s.irq) :
    i = .step ∨ i = .irqclr ∨ i = .reset ∨ Claims.IsWrcr i := by
  cases i
  case step => exact .inl rfl
  case irqclr => exact .inr (.inl rfl)
  case reset => exact .inr (.inr (.inl rfl))
  case wrcr cr => exact .inr (.inr (.inr ⟨cr, rfl⟩))
  case ldsmp t v => exact absurd (s.setTap_irq t v) h
  all_goals exact absurd rfl h

theorem writer_of_accum_ne {i : Instr} {s : State} (h : (after i s).accum ≠ s.accum) :
    i = .step ∨ i = .reset ∨ ∃ d, i = .wracc d := by
  cases i
  case step => exact .inl rfl
  case reset => exact .inr (.inl rfl)
  case wracc d => exact .inr (.inr ⟨d, rfl⟩)
  case ldsmp t v => exact absurd (s.setTap_accum t v) h
  all_goals exact absurd rfl h

theorem writer_of_fc_ne {i : Instr} {s : State} (h : (after i s).fc ≠ s.fc) : i = .reset ∨ ∃ d, i = .wrfc d := by
  cases i
  case step => exact absurd s.advance_fc h
  case reset => exact .inl rfl
  case wrfc d => exact .inr ⟨d, rfl⟩
  case ldsmp t v => exact absurd (s.setTap_fc t v) h
  all_goals exact absurd rfl h

theorem writer_of_sample0_ne {i : Instr} {s : State} (h : (after i s).sample0 ≠ s.sample0) :
    i = .reset ∨ ∃ v, i = .ldsmp .tap0 v := by
  cases i
  case step => exact absurd s.advance_sample0 h
  case reset => exact .inl rfl
  case ldsmp t v =>
    cases t
    · exact .inr ⟨v, rfl⟩
    · exact absurd rfl h
  all_goals exact absurd rfl h

theorem writer_of_sample1_ne {i : Instr} {s : State} (h : (after i s).sample1 ≠ s.sample1) :
    i = .reset ∨ ∃ v, i = .ldsmp .tap1 v := by
  cases i
  case step => exact absurd s.advance_sample1 h
  case reset => exact .inl rfl
  case ldsmp t v =>
    cases t
    · exact absurd rfl h
    · exact .inr ⟨v, rfl⟩
  all_goals exact absurd rfl h

/-- The commands that write a stop or loop control bit or the direction. -/
theorem writer_of_loopControl_ne {i : Instr} {s : State} (h : (after i s).stop0 ≠ s.stop0 ∨ (after i s).lpe ≠ s.lpe ∨
    (after i s).ble ≠ s.ble ∨ (after i s).dir ≠ s.dir) : i = .step ∨ i = .reset ∨ Claims.IsWrcr i := by
  cases i
  case step => exact .inl rfl
  case reset => exact .inr (.inl rfl)
  case wrcr cr => exact .inr (.inr ⟨cr, rfl⟩)
  case ldsmp t v => cases t <;> simp [after] at h
  all_goals simp [after] at h

end Sys2Proof.Machine

/-! PROOFS. The statements about which commands change an element (10_state.md R37, R42, 60_exceptions.md R204). -/

namespace Sys2Proof.Machine

/-- Settles O53: of the writers of `lei`, `RESET` clears it and a `STEP` sets it by the conversion alone. -/
theorem leiChangesOnlyAsStated : Obligations.LeiChangesOnlyAsStated := by
  intro i s t h hne
  obtain rfl := exec_next_iff.mp h
  rcases writer_of_lei_ne hne with rfl | rfl | hw
  · exact .inr (.inr ⟨rfl, advance_lei_ne hne⟩)
  · exact .inr (.inl ⟨rfl, Bool.eq_true_of_not_eq_false fun hs => hne hs.symm⟩)
  · exact .inl hw

/-- Settles O54: of the writers of `irq`, a `STEP` only sets it, `IRQCLR` and `RESET` only clear it, and `WRCR` loads it. -/
theorem irqChangesOnlyAsStated : Obligations.IrqChangesOnlyAsStated := by
  intro i s t h
  obtain rfl := exec_next_iff.mp h
  refine ⟨fun hs ht => ?_, fun hs ht => ?_⟩ <;>
    rcases writer_of_irq_ne (by rw [hs, ht]; decide) with rfl | rfl | rfl | ⟨cr, rfl⟩
  · obtain ⟨hx, hirq⟩ := advance_irq_ne (s := s) (fun he => Bool.noConfusion (hs.symm.trans (he.symm.trans ht)))
    have hirqe : s.irqe = true := by
      have hset := hirq.symm.trans ht
      rwa [hs, Bool.false_or] at hset
    exact .inl ⟨rfl, hx, hirqe⟩
  · cases ht
  · cases ht
  · exact .inr ⟨cr, rfl, ht⟩
  · obtain ⟨-, hirq⟩ := advance_irq_ne (s := s) (fun he => Bool.noConfusion (ht.symm.trans (he.trans hs)))
    rw [hs] at hirq
    cases ht.symm.trans hirq
  · exact .inl rfl
  · exact .inr (.inl rfl)
  · exact .inr (.inr ⟨cr, rfl, ht⟩)

/-- Settles O56: the writers of each element, and the frame of every command. -/
theorem accessTable : Obligations.AccessTable := by
  intro i s t h
  obtain rfl := exec_next_iff.mp h
  exact ⟨writer_of_accum_ne, writer_of_fc_ne, writer_of_sample0_ne, writer_of_sample1_ne, writer_of_loopControl_ne,
    after_cfg_port i s⟩

end Sys2Proof.Machine

/-! SUPPORT. A row of voices, cycle by cycle, and the command sequences of the enclosing blocks (60_exceptions.md R210,
41_sample_path.md R137, 70_reset_and_hazards.md R222). -/

namespace Sys2Proof.Machine

/-! ### A row of voices -/

/-- Every cycle of a row goes on, each voice by the command at its own place (R210). -/
theorem cycle_eq_mapIdx (c : List State) (ws : List Word) :
    Chip.cycle c ws = .next (c.mapIdx fun j s => after (decode (ws.getD j nopWord)) s) := by
  induction c generalizing ws with
  | nil => rfl
  | cons s ss ih =>
    have htail : ∀ j, ws.tail.getD j nopWord = ws.getD (j + 1) nopWord := by cases ws <;> simp
    have hhead : ws.headD nopWord = ws.getD 0 nopWord := by cases ws <;> rfl
    rw [Chip.cycle, exec_eq_after, ih]
    simp only [htail, hhead, List.mapIdx_cons]

/-- The word of a chip reset at any voice's place (R183). -/
theorem getD_replicate_of_lt {w : Word} {n j : Nat} (h : j < n) : (List.replicate n w).getD j nopWord = w := by
  simp [List.getD_eq_getElem?_getD, h]

theorem toVoice_getD_same {k n : Nat} (w : Word) (h : k < n) : (Chip.toVoice k w n).getD k nopWord = w := by
  simp [Chip.toVoice, List.getD_eq_getElem?_getD, h]

theorem toVoice_getD_ne {j k : Nat} (w : Word) (n : Nat) (h : j ≠ k) : (Chip.toVoice k w n).getD j nopWord = nopWord := by
  rw [Chip.toVoice, List.getD_eq_getElem?_getD, List.getElem?_set_ne h.symm, List.getElem?_replicate]
  split <;> rfl

/-! ### The slot of a voice -/

/-- The samples of a slot, delivered to both taps. -/
theorem collect_fetch (x y : Sample) (s : State) :
    (collect [.ldsmp .tap0 x, .ldsmp .tap1 y] s).2 = { s with sample0 := x, sample1 := y, out := ⟨none, false⟩ } := rfl

/-! ### The boot sequence -/

/-- The commands of the boot and key-on sequence (R222). -/
def bootInstrs (fc start end_ accum : Data) (cr : BitVec 8) : List Instr :=
  [.reset, .wrcr 0x02#8, .wrfc fc, .wrstart start, .wrend end_, .wracc accum, .wrcr (cr &&& 0xF8#8)]

/-- The words of the boot sequence encode its commands: `KEYOFF` and `KEYON` are each one `WRCR` (R80). -/
theorem bootCommands_eq (fc start end_ accum : Data) (cr : BitVec 8) :
    bootCommands fc start end_ accum cr = (bootInstrs fc start end_ accum cr).map encode := by
  have hon : asmWord 0x8 0 (keyOnCr (cr &&& 0xFB#8).toNat) = encode (.wrcr (cr &&& 0xF8#8)) := by
    rw [asmWord_keyOn, BitVec.ofNat_toNat, BitVec.setWidth_eq, BitVec.and_assoc]
    rfl
  have hreset : asmWord 0xF 0 0 = encode .reset := rfl
  have hoff : asmWord 0x8 0 (keyOffCr 0) = encode (.wrcr 0x02#8) := asmWord_keyOff 0
  show [asmWord 0xF 0 0, asmWord 0x8 0 (keyOffCr 0), asmWord 0x4 0 fc.toNat, asmWord 0x5 0 start.toNat,
    asmWord 0x6 0 end_.toNat, asmWord 0x7 0 accum.toNat, asmWord 0x8 0 (keyOnCr (cr &&& 0xFB#8).toNat)] = _
  rw [hreset, hoff, hon, asmWord_data, asmWord_data, asmWord_data, asmWord_data]
  rfl

/-- The control bits of the boot sequence: those of `cr`, the stop bits and `lei` 0. -/
theorem loadCr_boot (cr : BitVec 8) (s : State) : s.loadCr (cr &&& 0xF8#8) =
    { s with stop0 := false, stop1 := false, lei := false, lpe := cr[3], ble := cr[4], irqe := cr[5], dir := cr[6],
             irq := cr[7] } := by
  simp [State.loadCr]

/-- A sequence of commands keeps a legal state legal. -/
theorem inv_collect (is : List Instr) {s : State} (h : s.Inv) : (collect is s).2.Inv := by
  induction is generalizing s with
  | nil => exact h
  | cons i is ih => exact ih (inv_after i h)

/-- The state after the boot sequence: the registers as written, the control bits of `cr` with the stop bits and `lei` 0. -/
theorem collect_bootInstrs (fc start end_ accum : Data) (cr : BitVec 8) (s : State) :
    (collect (bootInstrs fc start end_ accum cr) s).2 =
      { State.resetWith s.cfg with
        accum := (s.setAccum (accOperand accum)).accum, fc := fcOperand s.cfg fc, start := boundaryOperand s.cfg start,
        end_ := boundaryOperand s.cfg end_, lpe := cr[3], ble := cr[4], irqe := cr[5], dir := cr[6], irq := cr[7],
        port := s.port } := by
  simp only [bootInstrs, collect, after, State.answer_cfg, State.clear_cfg, State.loadCr_cfg, State.setFc_cfg,
    State.setStart_cfg, loadCr_boot]
  rfl

end Sys2Proof.Machine

/-! PROOFS. The statements about the enclosing blocks (R59, R137, R183, R210, R222). -/

namespace Sys2Proof.Machine

/-- Settles O57: every voice gets a `RESET`. -/
theorem chipResetResetsEveryInstance : Obligations.ChipResetResetsEveryInstance := by
  intro c
  rw [Chip.chipReset, cycle_eq_mapIdx]
  congr 1
  apply List.ext_getElem (by simp)
  intro j hj _
  rw [List.length_mapIdx] at hj
  rw [List.getElem_mapIdx, getD_replicate_of_lt hj, decode_encode, List.getElem_map]
  rfl

/-- Settles O58: every other voice gets a `NOP`. -/
theorem instancesAreIndependent : Obligations.InstancesAreIndependent := by
  intro c k w hk
  refine ⟨_, cycle_eq_mapIdx _ _, List.length_mapIdx, fun j s hj hs => ?_, fun s t hs ht => ?_⟩
  · rw [List.getElem?_mapIdx, hs, Option.map_some, toVoice_getD_ne w _ hj, decode_nopWord]
    rfl
  · rw [List.getElem?_mapIdx, hs, Option.map_some, toVoice_getD_same w hk, exec_next_iff.mp ht]

/-- Settles O59: the first two commands of a busy slot fill the taps, and the third runs from there. -/
theorem slotDeliversFetchedSamples : Obligations.SlotDeliversFetchedSamples := by
  intro callback s hport
  refine ⟨fun hb => ?_, fun hb => ?_⟩
  · have hslot : (s.presentAll (slotCommands callback s)).port =
        [Instr.ldsmp .tap0 (callback s.addr0), .ldsmp .tap1 (callback s.addr1)].map encode ++ [encode .step] := by
      rw [State.presentAll_port, hport, slotCommands, if_pos hb]
      simp only [List.nil_append, List.map_cons, List.map_nil, List.cons_append]
    have hfetch := runs_of_port_append hslot
    rw [collect_fetch] at hfetch
    exact ⟨_, _, hfetch, runs_add hfetch (runs_of_port_steps (n := 1) rfl), rfl, rfl, rfl,
      exec_next_iff.mpr (after_withPort .step _ []).symm⟩
  · have hslot : (s.presentAll (slotCommands callback s)).port = List.replicate 1 (encode .step) := by
      rw [State.presentAll_port, hport, slotCommands, if_neg (by simp [hb])]
      rfl
    have hstopped : (s.presentAll (slotCommands callback s)).busy = false := hb
    have hrun := runs_of_port_steps hslot
    rw [Function.iterate_one, advance_of_stopped _ hstopped] at hrun
    have hend : ({ s with port := [], out := ⟨none, false⟩ } : State) = { s with out := ⟨none, false⟩ } := by rw [← hport]
    exact hend ▸ hrun

/-- Settles O60: the boot words run one per cycle to the state they write, which is legal from the `RESET` on. -/
theorem bootSequenceStartsTheVoice : Obligations.BootSequenceStartsTheVoice := by
  intro s fc start end_ accum cr hwf hport
  have hboot : (s.presentAll (bootCommands fc start end_ accum cr)).port =
      (bootInstrs fc start end_ accum cr).map encode := by
    rw [State.presentAll_port, hport, bootCommands_eq]
    rfl
  have hrun := runs_of_port hboot
  have hinv : (collect (bootInstrs fc start end_ accum cr) (s.presentAll (bootCommands fc start end_ accum cr))).2.Inv :=
    inv_collect _ (s := after .reset _) (inv_resetWith hwf)
  rw [collect_bootInstrs] at hrun hinv
  exact ⟨_, hrun, rfl, hinv, rfl, rfl, fcOperand_toNat _ _, setAccum_accOperand_toNat s accum, boundaryOperand_toNat _ _,
    boundaryOperand_toNat _ _, rfl, rfl, rfl, rfl, rfl, rfl, rfl, rfl⟩

end Sys2Proof.Machine
